-- ==== Sys2Proof/Word.lean ====
section
/-! DEFINITION. The PTC's data words: bytes, port words, pixel values, 15-bit colours, RGB triplets
and canvas cells (00_scope R9, R12; 10_state R32). -/

namespace Sys2Proof

/-- A byte (00_scope R9). -/
abbrev Byte := BitVec 8

/-- A host port word, a command word, FINFO (20_memory R64; 30_encoding R80; 10_state R43). -/
abbrev Word := BitVec 32

/-- A pixel value 0..15 (00_scope R9, 10_state R27). -/
abbrev Pixel := BitVec 4

/-- A 15-bit packed colour: red 4:0, green 9:5, blue 14:10 (30_encoding R89). -/
abbrev Color15 := BitVec 15

/-- An 8-bit RGB triplet (10_state R30). -/
structure Rgb where
  r : Byte
  g : Byte
  b : Byte
  deriving DecidableEq, Repr

/-- What a written canvas position holds (10_state R32): a colour in direct mode, a palette address
0..127 in indexed mode. -/
inductive Paint where
  /-- `RGB(r, g, b)` -/
  | rgb (c : Rgb)
  /-- `IDX(i)` -/
  | idx (i : BitVec 7)
  deriving DecidableEq, Repr

/-- A canvas or raster cell (10_state R32); `none` is the spec's `EMPTY`. -/
abbrev Cell := Option Paint

end Sys2Proof
end

