-- ==== Sys2Proof/Syntax.lean ====
section
/-! DEFINITION. The PTC's eleven commands (30_encoding R82), one constructor per row of spec/opcode_table.json. -/

namespace Sys2Proof

/-- A command. Its operand `A` is an unsigned integer 0..65535, neither sign-extended nor scaled (30_encoding R81):
a tile slot, an entry slot or an entry count. -/
inductive Instr where
  /-- TDEC: decode RAW into PIX (40_tile_codec R104). -/
  | tdec
  /-- TENC: encode PIX into RAW (40_tile_codec R105). -/
  | tenc
  /-- TLD t: copy tile slot `t` into RAW (40_tile_codec R106). -/
  | tld (t : Nat)
  /-- TST t: store RAW into tile slot `t` (40_tile_codec R107). -/
  | tst (t : Nat)
  /-- EPRS e: parse entry slot `e` into ENT (41_compositor R141). -/
  | eprs (e : Nat)
  /-- CCLR: clear the canvas (41_compositor R142). -/
  | cclr
  /-- DRAW e: draw entry slot `e` (41_compositor R143). -/
  | draw (e : Nat)
  /-- RAST: rasterise the canvas (41_compositor R144). -/
  | rast
  /-- CV15: C15 to RGB (42_palette R186). -/
  | cv15
  /-- CV24: RGB to C15 (42_palette R187). -/
  | cv24
  /-- COMP n: compose entries 0..n-1 (41_compositor R145). -/
  | comp (n : Nat)
  deriving DecidableEq, Repr

end Sys2Proof
end

