-- ==== Sys2Proof/WellFormed.lean ====
section
/-! DEFINITION. Which command terms stand for a command word: the operand fits the 16-bit field A (30_encoding R80, R81). -/

namespace Sys2Proof

/-- `A = zext_32(w[31:16])`, 0..65535 (30_encoding R81). -/
def operandFits (a : Nat) : Bool := decide (a < 65536)

/-- A term is well formed when a command word encodes it. -/
def WellFormed : Instr → Bool
  | .tdec => true
  | .tenc => true
  | .tld t => operandFits t
  | .tst t => operandFits t
  | .eprs e => operandFits e
  | .cclr => true
  | .draw e => operandFits e
  | .rast => true
  | .cv15 => true
  | .cv24 => true
  | .comp n => operandFits n

end Sys2Proof
end

