-- ==== Sys2Proof/Decode.lean ====
section
/-! DEFINITION. The command word (30_encoding R80 to R84): its fields, the decoder, total on every word and rejecting
by name, and the encoder. -/

namespace Sys2Proof

/-- Why a word is illegal (30_encoding R83); each raises ILLEGAL_CMD. -/
inductive DecodeError where
  /-- R83 (a): OP is 0x00 or 0x0C..0xFF. -/
  | illegalOpcode
  /-- R83 (b): RSV is not 0. -/
  | reservedNotZero
  /-- R83 (c): A is not 0 on a command without an operand. -/
  | operandNotZero
  deriving DecidableEq, Repr

/-- `OP = w[7:0]` (30_encoding R80). -/
def fieldOP (w : Word) : Nat := (w.extractLsb' 0 8).toNat

/-- `RSV = w[15:8]` (30_encoding R80). -/
def fieldRSV (w : Word) : Nat := (w.extractLsb' 8 8).toNat

/-- `A = w[31:16]`, unsigned (30_encoding R80, R81). -/
def fieldA (w : Word) : Nat := (w.extractLsb' 16 16).toNat

/-- A command without an operand requires A = 0 (30_encoding R83 c). -/
def withoutOperand (i : Instr) (a : Nat) : Except DecodeError Instr :=
  if a = 0 then .ok i else .error .operandNotZero

/-- The opcode map (30_encoding R82), for a word whose RSV is 0. -/
def decodeOp (op a : Nat) : Except DecodeError Instr :=
  match op with
  | 0x01 => withoutOperand .tdec a
  | 0x02 => withoutOperand .tenc a
  | 0x03 => .ok (.tld a)
  | 0x04 => .ok (.tst a)
  | 0x05 => .ok (.eprs a)
  | 0x06 => withoutOperand .cclr a
  | 0x07 => .ok (.draw a)
  | 0x08 => withoutOperand .rast a
  | 0x09 => withoutOperand .cv15 a
  | 0x0A => withoutOperand .cv24 a
  | 0x0B => .ok (.comp a)
  | _ => .error .illegalOpcode

/-- The command a word stands for, or why it is illegal (30_encoding R80 to R84). -/
def decode (w : Word) : Except DecodeError Instr :=
  if fieldRSV w = 0 then decodeOp (fieldOP w) (fieldA w) else .error .reservedNotZero

/-- The opcode number of a command (30_encoding R82). -/
def Instr.opcode : Instr → Nat
  | .tdec => 0x01
  | .tenc => 0x02
  | .tld _ => 0x03
  | .tst _ => 0x04
  | .eprs _ => 0x05
  | .cclr => 0x06
  | .draw _ => 0x07
  | .rast => 0x08
  | .cv15 => 0x09
  | .cv24 => 0x0A
  | .comp _ => 0x0B

/-- The operand field of a command, 0 where it has none (30_encoding R81). -/
def Instr.operand : Instr → Nat
  | .tdec => 0
  | .tenc => 0
  | .tld t => t
  | .tst t => t
  | .eprs e => e
  | .cclr => 0
  | .draw e => e
  | .rast => 0
  | .cv15 => 0
  | .cv24 => 0
  | .comp n => n

/-- `w = (A << 16) | OP` (30_encoding R85). -/
def encode (i : Instr) : Word :=
  (BitVec.ofNat 32 i.operand <<< 16) ||| BitVec.ofNat 32 i.opcode

/-- The port word the host's opcode-table bits stand for: the low `nbits` bits of `w`, every other bit 0. -/
def tableWord (nbits w : Nat) : Word := BitVec.ofNat 32 (w % 2 ^ nbits)

/-- The command the decoder reads from a row of spec/opcode_table.json (its bits numbered as the table numbers them). -/
def decodeTableWord (nbits w : Nat) : Option Instr :=
  match decode (tableWord nbits w) with
  | .ok i => some i
  | .error _ => none

end Sys2Proof
end

