-- ==== Sys2Proof/Config.lean ====
section
/-! DEFINITION. The PTC's implementation parameters (00_scope R6) and the free values the spec leaves open. -/

namespace Sys2Proof

/-- The parameter `RGB_TO_15` (42_palette R182): the default shift form, or a function the integrator supplies. -/
inductive RgbTo15Form where
  /-- The spec's default. -/
  | shift
  /-- Any other total function: the opaque `Config.suppliedRgbTo15` (log 2). -/
  | supplied
  deriving DecidableEq, Repr

/-- The parameters of 00_scope R6. Fixed for one machine; no step changes them (log 1). -/
structure Config where
  /-- `N_TILES`, slots in tile memory, 1..65536. -/
  nTiles : Nat
  /-- `N_ENTRIES`, slots in entry memory, 1..65535. -/
  nEntries : Nat
  /-- `RGB_TO_15`. -/
  rgbTo15 : RgbTo15Form
  deriving DecidableEq, Repr

/-- The defaults of 00_scope R6. -/
def Config.standard : Config := { nTiles := 512, nEntries := 256, rgbTo15 := .shift }

/-- The ranges 00_scope R6 allows. -/
abbrev Config.wf (c : Config) : Prop :=
  1 ≤ c.nTiles ∧ c.nTiles ≤ 65536 ∧ 1 ≤ c.nEntries ∧ c.nEntries ≤ 65535

/-- FREE VALUE: the function a machine with `RGB_TO_15` other than the default was given (42_palette R182,
93 I1; log 2). -/
opaque Config.suppliedRgbTo15 : Byte → Byte → Byte → Color15

/-- FREE VALUE: the n-th unspecified port word a host read draws (10_state R29, 20_memory R65, 93 I5, I7, I8; log 5). -/
opaque Config.freeWord : Nat → Word

/-- FREE VALUE: the canvas a fault inside a draw leaves, as a list of painted positions `((x + 256, y + 128), paint)`
(60_exceptions R204, 93 I9; log 6). -/
opaque Config.freeCanvas : Nat → List ((Fin 527 × Fin 271) × Paint)

end Sys2Proof
end

