-- ==== Sys2Proof/Machine/State.lean ====
section
/-! DEFINITION. The PTC's state (10_state.md), its fault causes (60_exceptions R200), the host's accesses
(20_memory R66), and the state after reset (70_reset R240). All of it is plain data. -/

namespace Sys2Proof.Machine

/-- A memory or buffer as the list of its WRITTEN elements `(key, value)`, keys strictly rising; an element is
listed exactly when its written flag is 1 (10_state R29; log 11). `Memory Byte` is a list of `Host.Cell`. -/
abbrev Memory (α : Type) := List (Nat × α)

/-- The canonical form of a memory: keys strictly rising, so no key twice and equal memories are equal lists. -/
abbrev Memory.wf {α : Type} (m : Memory α) : Prop := m.Pairwise (fun p q => p.1 < q.1)

/-- CTRL.MODE (10_state R42). -/
inductive Mode where
  /-- MODE = 0: direct RGB output. -/
  | direct
  /-- MODE = 1: indexed output. -/
  | indexed
  deriving DecidableEq, Repr

/-- The PTC's fault causes (60_exceptions R200). They are recorded in STATUS; the step goes on. -/
inductive Cause where
  | illegalCmd
  | operandRange
  | tileMissing
  | palMissing
  | uninit
  deriving DecidableEq, Repr

/-- What `raise Fault(CAUSE, INFO)` records (00_scope R10, 60_exceptions R202). -/
structure FaultRecord where
  cause : Cause
  info : Word
  deriving DecidableEq, Repr

/-- STATUS (10_state R41); its reserved bits read 0 and are not stored. -/
structure Status where
  /-- bit 0: a command faulted; the PTC takes no command. -/
  fault : Bool
  /-- bit 1: RASTER holds the result of a completed RAST or COMP. -/
  rvalid : Bool
  /-- bits 15:8; `none` is code 0. -/
  cause : Option Cause
  deriving DecidableEq, Repr

/-- The fields of one parsed tilemap entry (10_state R31, 41_compositor R130). -/
structure ParsedEntry where
  x : Int
  y : Int
  big : Bool
  tile : Byte
  pal : BitVec 3
  hf : Bool
  vf : Bool
  prio : Bool
  deriving DecidableEq, Repr

/-- RASTER (10_state R33). RBUF holds its painted cells under the key `0x400 * j + i`; an unlisted cell is EMPTY. -/
structure Raster where
  rw : Nat
  rh : Nat
  orgX : Nat
  orgY : Nat
  rbuf : Memory Paint
  deriving DecidableEq, Repr

/-- The elements of the host port's address map (20_memory R66). -/
inductive Port where
  | cmd
  | status
  | finfo
  | ctrl
  | c15
  | rgb
  | ent0
  | ent1
  | rsize
  | rorg
  /-- RAW[i] -/
  | raw (i : Nat)
  /-- PIX[k] -/
  | pix (k : Nat)
  /-- PAL[a] -/
  | pal (a : Nat)
  /-- ENTRY[e][i] -/
  | entry (e i : Nat)
  /-- TILE[t][i] -/
  | tile (t i : Nat)
  /-- RBUF[j][i] -/
  | rbuf (j i : Nat)
  deriving DecidableEq, Repr

/-- One act of the host on the PTC (20_memory R66, 70_reset R240). -/
inductive HostOp where
  /-- The host asserts reset. -/
  | reset
  /-- The host writes a port word. -/
  | write (addr : Nat) (data : Word)
  /-- The host reads a port word. -/
  | read (addr : Nat)
  deriving DecidableEq, Repr

/-- THE MODEL'S OWN: the host agent (10_state R21, R22; log 3, log 17). -/
structure HostSide where
  /-- The host's accesses still to be performed, in their total order (20_memory R69). -/
  pending : List HostOp
  /-- The port word the host's last read returned. -/
  result : Option Word
  deriving DecidableEq, Repr

/-- Everything the spec gives the machine (10_state.md), its parameters, and the model's own `host` and `draws`. -/
structure State where
  /-- The parameters of 00_scope R6. -/
  cfg : Config
  /-- TILE and TILEV: key `32 * t + i` (10_state R23). -/
  tile : Memory Byte
  /-- PAL and PALV: key `a` (10_state R24). -/
  pal : Memory Color15
  /-- ENTRY and ENTRYV: key `8 * e + i` (10_state R25). -/
  entry : Memory Byte
  /-- RAW and RAWV: key `i` (10_state R26). -/
  raw : Memory Byte
  /-- PIX and PIXV: key `8 * r + c` (10_state R27). -/
  pix : Memory Pixel
  /-- C15 (10_state R28). -/
  c15 : Color15
  /-- C15V (10_state R28). -/
  c15V : Bool
  /-- RGB (10_state R30). -/
  rgb : Rgb
  /-- RGBV (10_state R30). -/
  rgbV : Bool
  /-- ENT but for its valid bit (10_state R31). -/
  ent : ParsedEntry
  /-- ENT.V (10_state R31). -/
  entV : Bool
  /-- CANVAS: the painted positions, key `1024 * (y + 128) + (x + 256)`; an unlisted position is EMPTY (10_state R32; log 13). -/
  canvas : Memory Paint
  /-- RASTER (10_state R33). -/
  raster : Raster
  /-- CTRL.MODE (10_state R42). -/
  mode : Mode
  /-- STATUS (10_state R41). -/
  status : Status
  /-- FINFO (10_state R43). -/
  finfo : Word
  /-- THE MODEL'S OWN: the host agent. -/
  host : HostSide
  /-- THE MODEL'S OWN: how many free values have been drawn (log 5, log 6). -/
  draws : Nat
  deriving DecidableEq, Repr

/-- Why the machine would stop with a fault of the host interface: never. The PTC's own faults (60_exceptions R200) are
recorded in STATUS and FINFO and the step answers the next state (R202). -/
inductive Fault where
  deriving DecidableEq, Repr

/-- Why a step has no meaning. -/
inductive Refusal where
  /-- Raised by an arm of `exec` whose command has no meaning yet; safe. No arm raises it. -/
  | notModelled (mnemonic : String)
  /-- Raised by a step whose host access names a port address the map does not list: "the host model has no such
  move" (20_memory R67, 93 I16; log 9); safe. -/
  | unlistedPort (addr : Nat)
  deriving DecidableEq, Repr

/-- The machine with parameters `c` right after reset (70_reset R240). The registers the spec leaves unspecified hold
the values of log 10 (DESIGN CHOICE). -/
def State.resetWith (c : Config) : State :=
  { cfg := c
    tile := []
    pal := []
    entry := []
    raw := []
    pix := []
    c15 := 0
    c15V := false
    rgb := { r := 0, g := 0, b := 0 }
    rgbV := false
    ent := { x := 0, y := 0, big := false, tile := 0, pal := 0, hf := false, vf := false, prio := false }
    entV := false
    canvas := []
    raster := { rw := 1, rh := 1, orgX := 0, orgY := 0, rbuf := [] }
    mode := .direct
    status := { fault := false, rvalid := false, cause := none }
    finfo := 0
    host := { pending := [], result := none }
    draws := 0 }

/-- The machine with the default parameters right after reset (70_reset R240, 00_scope R6). -/
def State.reset : State := State.resetWith Config.standard

end Sys2Proof.Machine
end

