-- ==== Sys2Proof/Machine/Ops.lean ====
section
/-! DEFINITION. The named operations over memories and registers: element reads and writes (00_scope R10), one update
per register, raising a fault (60_exceptions R202), reset, the way out of one (R207), and drawing a free value. -/

namespace Sys2Proof.Machine

/-- `NAME[a]`: the element under key `a`, `none` when its written flag is 0 (00_scope R10, 10_state R29). -/
def Memory.read {α : Type} : Memory α → Nat → Option α
  | [], _ => none
  | (k, v) :: m, a => if k = a then some v else Memory.read m a

/-- `NAME[a] <- v`: writes the element and sets its written flag (00_scope R10, 10_state R29). -/
def Memory.write {α : Type} : Memory α → Nat → α → Memory α
  | [], a, v => [(a, v)]
  | (k, u) :: m, a, v =>
    if a < k then (a, v) :: (k, u) :: m
    else if a = k then (a, v) :: m
    else (k, u) :: Memory.write m a v

/-- The value of element `a`, for an element a check has found written; 0 otherwise, which no meaning uses. -/
def Memory.value {w : Nat} (m : Memory (BitVec w)) (a : Nat) : BitVec w := (m.read a).getD 0

/-- The lowest `i < n` whose element `base + i` is unwritten: where `MemRead(space, base, n)` faults (00_scope R10). -/
def Memory.firstUnwritten {α : Type} (m : Memory α) (base n : Nat) : Option Nat :=
  (List.range n).find? (fun i => (m.read (base + i)).isNone)

/-- `MemWrite(space, base, n, f)`: writes `f 0 .. f (n-1)` to the elements from `base` on (00_scope R10). -/
def Memory.writeRange {α : Type} (m : Memory α) (base : Nat) : Nat → (Nat → α) → Memory α
  | 0, _ => m
  | n + 1, f => (Memory.writeRange m base n f).write (base + n) (f n)

/-- A loop of the pseudocode whose body may raise a fault: the first fault ends it (00_scope R11). -/
def runLoop {α β ε : Type} (body : β → α → Except ε β) : List α → β → Except ε β
  | [], b => .ok b
  | a :: as, b =>
    match body b a with
    | .ok b' => runLoop body as b'
    | .error e => .error e

/-- Key of ENTRY[e][i] (20_memory R66: the port offset). -/
def entryKey (e i : Nat) : Nat := 8 * e + i

/-- Key of TILE[t][i] (20_memory R66: the port offset). -/
def tileKey (t i : Nat) : Nat := 32 * t + i

/-- Key of PIX at row `r`, column `c`: `8r + c` (10_state R27). -/
def pixKey (r c : Nat) : Nat := 8 * r + c

/-- Key of the canvas position `(x, y)`, row-major over x -256..270, y -128..142 (10_state R32; log 13). -/
def canvasKey (x y : Int) : Nat := (1024 * (y + 128) + (x + 256)).toNat

/-- The x of a canvas key. -/
def keyX (k : Nat) : Int := (k % 1024 : Nat) - 256

/-- The y of a canvas key. -/
def keyY (k : Nat) : Int := (k / 1024 : Nat) - 128

/-- Key of RBUF[j][i] (20_memory R66: the port offset). -/
def rbufKey (j i : Nat) : Nat := 0x400 * j + i

/-- Port address of RAW[i] (20_memory R66). -/
def rawPort (i : Nat) : Nat := 0x000100 + i

/-- Port address of PIX[k] (20_memory R66). -/
def pixPort (k : Nat) : Nat := 0x000200 + k

/-- Port address of PAL[a] (20_memory R66). -/
def palPort (a : Nat) : Nat := 0x000400 + a

/-- Port address of ENTRY[e][i] (20_memory R66). -/
def entryPort (e i : Nat) : Nat := 0x010000 + entryKey e i

/-- Port address of TILE[t][i] (20_memory R66). -/
def tilePort (t i : Nat) : Nat := 0x100000 + tileKey t i

/-- Port address of RBUF[j][i] (20_memory R66). -/
def rbufPort (j i : Nat) : Nat := 0x400000 + rbufKey j i

def State.setTile (s : State) (m : Memory Byte) : State := { s with tile := m }

def State.setPal (s : State) (m : Memory Color15) : State := { s with pal := m }

def State.setEntry (s : State) (m : Memory Byte) : State := { s with entry := m }

def State.setRaw (s : State) (m : Memory Byte) : State := { s with raw := m }

def State.setPix (s : State) (m : Memory Pixel) : State := { s with pix := m }

/-- Any write to C15 sets C15V (10_state R29). -/
def State.setC15 (s : State) (c : Color15) : State := { s with c15 := c, c15V := true }

/-- Any write to RGB sets RGBV (10_state R29, R30). -/
def State.setRgb (s : State) (c : Rgb) : State := { s with rgb := c, rgbV := true }

/-- EPRS writes ENT and sets ENT.V (10_state R31). -/
def State.setEnt (s : State) (e : ParsedEntry) : State := { s with ent := e, entV := true }

def State.setCanvas (s : State) (m : Memory Paint) : State := { s with canvas := m }

/-- A completed rasterisation writes RASTER and sets STATUS.RVALID (41_compositor R140). -/
def State.setRaster (s : State) (r : Raster) : State :=
  { s with raster := r, status := { s.status with rvalid := true } }

def State.setMode (s : State) (m : Mode) : State := { s with mode := m }

/-- The host's remaining accesses. -/
def State.setPending (s : State) (l : List HostOp) : State := { s with host := { s.host with pending := l } }

/-- What a host read returned. -/
def State.setResult (s : State) (w : Word) : State := { s with host := { s.host with result := some w } }

/-- The next free value counts as drawn (log 5). -/
def State.countDraw (s : State) : State := { s with draws := s.draws + 1 }

/-- `raise Fault(c, info)`: FAULT <- 1, CAUSE <- c, FINFO <- info, nothing else saved (60_exceptions R202). -/
def State.raise (s : State) (f : FaultRecord) : State :=
  { s with status := { s.status with fault := true, cause := some f.cause }, finfo := f.info }

/-- Reset, the only way out of the faulted state (60_exceptions R207, 70_reset R240). The parameters, the host's side
and the count of drawn free values are no elements of the machine and stay (log 12). -/
def State.hostReset (s : State) : State :=
  { State.resetWith s.cfg with host := s.host, draws := s.draws }

/-- A command whose checks come before any write: the first fault found is raised and nothing else changes
(60_exceptions R204 a, R205); without one the command goes on. -/
def State.checked (s : State) (found : Option FaultRecord) (go : Host.Outcome State Fault Refusal) :
    Host.Outcome State Fault Refusal :=
  match found with
  | some f => .next (s.raise f)
  | none => go

/-- A canvas from a list of painted positions, a later one winning; every canvas of 10_state R32 is one of these. -/
def canvasOfPositions (l : List ((Fin 527 × Fin 271) × Paint)) : Memory Paint :=
  l.foldl (fun m p => m.write (1024 * p.1.2.val + p.1.1.val) p.2) []

/-- CANVAS is unspecified after a fault inside a draw: the next free canvas (60_exceptions R204 b; log 6). -/
def State.loseCanvas (s : State) : State :=
  (s.setCanvas (canvasOfPositions (Config.freeCanvas s.draws))).countDraw

/-- A fault of DRAW or COMP once its range check has passed (60_exceptions R204): TILE_MISSING and PAL_MISSING, raised inside
DrawEntry, leave CANVAS unspecified (b); any other leaves every element but STATUS and FINFO as before the command (a; for
COMP log 7). -/
def State.raiseDrawing (s : State) (f : FaultRecord) : State :=
  match f.cause with
  | .tileMissing => s.loseCanvas.raise f
  | .palMissing => s.loseCanvas.raise f
  | .illegalCmd => s.raise f
  | .operandRange => s.raise f
  | .uninit => s.raise f

/-- The cell of the canvas at `(x, y)` (10_state R32). -/
def State.canvasAt (s : State) (x y : Int) : Cell := s.canvas.read (canvasKey x y)

/-- RBUF[j][i] (10_state R33). -/
def Raster.cellAt (r : Raster) (j i : Nat) : Cell := r.rbuf.read (rbufKey j i)

/-- `CanvasWrite(x, y, cell)` (41_compositor R136). -/
def canvasWrite (m : Memory Paint) (x y : Int) (p : Paint) : Memory Paint := m.write (canvasKey x y) p

/-- The host places a CMD write (port address 0, 20_memory R66) before its other pending accesses (log 4). -/
def State.placeCommand (s : State) (w : Word) : State := s.setPending (.write 0x000000 w :: s.host.pending)

end Sys2Proof.Machine
end

