-- ==== Sys2Proof/Machine/Flags.lean ====
section
/-! DEFINITION. The written flags (10_state R29), STATUS (R41) and CTRL (R42) as software reads and writes them. -/

namespace Sys2Proof.Machine

/-- TILEV[t][i] (10_state R23). -/
def State.tileV (s : State) (t i : Nat) : Bool := (s.tile.read (tileKey t i)).isSome

/-- PALV[a] (10_state R24). -/
def State.palV (s : State) (a : Nat) : Bool := (s.pal.read a).isSome

/-- ENTRYV[e][i] (10_state R25). -/
def State.entryV (s : State) (e i : Nat) : Bool := (s.entry.read (entryKey e i)).isSome

/-- RAWV[i] (10_state R26). -/
def State.rawV (s : State) (i : Nat) : Bool := (s.raw.read i).isSome

/-- PIXV[k] (10_state R27). -/
def State.pixV (s : State) (k : Nat) : Bool := (s.pix.read k).isSome

/-- The code of a cause, the value of STATUS.CAUSE (60_exceptions R200). -/
def Cause.code : Cause → Byte
  | .illegalCmd => 1
  | .operandRange => 2
  | .tileMissing => 3
  | .palMissing => 4
  | .uninit => 5

/-- STATUS.CAUSE; 0 while no fault is recorded (10_state R41). -/
def Status.causeCode (st : Status) : Byte :=
  match st.cause with
  | some c => c.code
  | none => 0

/-- STATUS as a host word: 31:16 zero, CAUSE 15:8, 7:2 zero, RVALID 1, FAULT 0 (10_state R41). -/
def Status.word (st : Status) : Word :=
  0#16 ++ st.causeCode ++ 0#6 ++ BitVec.ofBool st.rvalid ++ BitVec.ofBool st.fault

/-- CTRL as a host word: MODE bit 0, the rest 0 (10_state R42). -/
def Mode.word : Mode → Word
  | .direct => 0
  | .indexed => 1

/-- A host write to CTRL: bit 0 is MODE, the reserved bits are ignored (10_state R42). -/
def Mode.ofWord (w : Word) : Mode := if w.getLsbD 0 then .indexed else .direct

end Sys2Proof.Machine
end

