-- ==== Sys2Proof/Machine/Operands.lean ====
section
/-! DEFINITION. What the commands read: the operand checks against N_TILES and N_ENTRIES (30_encoding R81,
60_exceptions R200), the written-flag checks on the input elements (10_state R29), and the inputs themselves. -/

namespace Sys2Proof.Machine

/-- The 32 bytes `raw[0..31]` of a packed tile, by byte number (30_encoding R87). -/
abbrev Tile := Nat → Byte

/-- The 8 x 8 grid `g[r][c]`, by row and column (40_tile_codec R100). -/
abbrev Grid := Nat → Nat → Pixel

/-- The 5 bytes `entry[0..4]` of a tilemap entry, by byte number (30_encoding R88). -/
abbrev EntryBytes := Nat → Byte

/-- OPERAND_RANGE for `t ≥ N_TILES` (TLD, TST; 60_exceptions R200). -/
def State.tileSlotFault (s : State) (t : Nat) : Option FaultRecord :=
  if s.cfg.nTiles ≤ t then some { cause := .operandRange, info := BitVec.ofNat 32 t } else none

/-- OPERAND_RANGE for `e ≥ N_ENTRIES` (EPRS, DRAW; 60_exceptions R200). -/
def State.entrySlotFault (s : State) (e : Nat) : Option FaultRecord :=
  if s.cfg.nEntries ≤ e then some { cause := .operandRange, info := BitVec.ofNat 32 e } else none

/-- OPERAND_RANGE for `n > N_ENTRIES` (COMP; 60_exceptions R200). -/
def State.countFault (s : State) (n : Nat) : Option FaultRecord :=
  if s.cfg.nEntries < n then some { cause := .operandRange, info := BitVec.ofNat 32 n } else none

/-- UNINIT naming a port address (60_exceptions R200). -/
def uninitAt (port : Nat) : FaultRecord := { cause := .uninit, info := BitVec.ofNat 32 port }

/-- UNINIT for the lowest unwritten RAW byte (TDEC, TST). -/
def State.rawFault (s : State) : Option FaultRecord :=
  (s.raw.firstUnwritten 0 32).map (fun i => uninitAt (rawPort i))

/-- UNINIT for the lowest unwritten PIX element (TENC). -/
def State.pixFault (s : State) : Option FaultRecord :=
  (s.pix.firstUnwritten 0 64).map (fun k => uninitAt (pixPort k))

/-- UNINIT for the lowest unwritten byte of entry slot `e` (EPRS, DRAW, COMP). -/
def State.entryFault (s : State) (e : Nat) : Option FaultRecord :=
  (s.entry.firstUnwritten (entryKey e 0) 5).map (fun i => uninitAt (entryPort e i))

/-- UNINIT for C15 (CV15). -/
def State.c15Fault (s : State) : Option FaultRecord :=
  if s.c15V then none else some (uninitAt 0x000004)

/-- UNINIT for RGB (CV24). -/
def State.rgbFault (s : State) : Option FaultRecord :=
  if s.rgbV then none else some (uninitAt 0x000005)

/-- The fault of `TileRead(t)`: TILE_MISSING when `t ≥ N_TILES` or a byte of the slot is unwritten (41_compositor R132). -/
def State.tileFault (s : State) (t : Nat) : Option FaultRecord :=
  if s.cfg.nTiles ≤ t ∨ (s.tile.firstUnwritten (tileKey t 0) 32).isSome then
    some { cause := .tileMissing, info := BitVec.ofNat 32 t }
  else none

/-- The fault of `PalRead(a)`: PAL_MISSING when PAL[a] is unwritten (42_palette R184). -/
def palFault (a : Nat) : FaultRecord := { cause := .palMissing, info := BitVec.ofNat 32 a }

/-- RAW[0..31]. -/
def State.rawTile (s : State) : Tile := fun i => s.raw.value i

/-- PIX as a grid: `g[r][c] <- PIX[8r + c]` (40_tile_codec R105). -/
def State.pixGrid (s : State) : Grid := fun r c => s.pix.value (pixKey r c)

/-- TILE[t][0..31]. -/
def State.tileBytes (s : State) (t : Nat) : Tile := fun i => s.tile.value (tileKey t i)

/-- ENTRY[e][0..4]. -/
def State.entryBytes (s : State) (e : Nat) : EntryBytes := fun i => s.entry.value (entryKey e i)

end Sys2Proof.Machine
end

