-- ==== Sys2Proof/Machine/Codec.lean ====
section
/-! DEFINITION. The tile codec: DecodeTile, EncodeTile and the commands TDEC, TENC, TLD, TST (40_tile_codec.md). -/

namespace Sys2Proof.Machine

/-- A pixel value from its four plane bits, plane `p` carrying weight `2^p` (40_tile_codec R100, 90_conflicts C1). -/
def pixelOfPlanes (b0 b1 b2 b3 : Bool) : Pixel :=
  BitVec.ofBool b3 ++ BitVec.ofBool b2 ++ BitVec.ofBool b1 ++ BitVec.ofBool b0

/-- `DecodeTile(raw)` (40_tile_codec R100). -/
def decodeTile (raw : Tile) : Grid := fun r c =>
  pixelOfPlanes
    ((raw (2 * r)).getLsbD (7 - c))
    ((raw (2 * r + 1)).getLsbD (7 - c))
    ((raw (16 + 2 * r)).getLsbD (7 - c))
    ((raw (17 + 2 * r)).getLsbD (7 - c))

/-- One byte of a plane: column 0 is bit 7, column 7 bit 0 (20_memory R60, 40_tile_codec R101). -/
def packRow (col : Nat → Bool) : Byte :=
  BitVec.ofBool (col 0) ++ BitVec.ofBool (col 1) ++ BitVec.ofBool (col 2) ++ BitVec.ofBool (col 3) ++
    BitVec.ofBool (col 4) ++ BitVec.ofBool (col 5) ++ BitVec.ofBool (col 6) ++ BitVec.ofBool (col 7)

/-- The row byte `i` of a tile carries (30_encoding R87). -/
def byteRow (i : Nat) : Nat := i % 16 / 2

/-- The plane byte `i` of a tile carries (30_encoding R87). -/
def bytePlane (i : Nat) : Nat := 2 * (i / 16) + i % 2

/-- `EncodeTile(g)` (40_tile_codec R101). -/
def encodeTile (g : Grid) : Tile := fun i =>
  packRow (fun c => (g (byteRow i) c).getLsbD (bytePlane i))

/-- TDEC (40_tile_codec R104). -/
def execTdec (s : State) : Host.Outcome State Fault Refusal :=
  s.checked s.rawFault <|
    .next (s.setPix (s.pix.writeRange 0 64 (fun k => decodeTile s.rawTile (k / 8) (k % 8))))

/-- TENC (40_tile_codec R105). -/
def execTenc (s : State) : Host.Outcome State Fault Refusal :=
  s.checked s.pixFault <|
    .next (s.setRaw (s.raw.writeRange 0 32 (encodeTile s.pixGrid)))

/-- TLD t (40_tile_codec R106). -/
def execTld (t : Nat) (s : State) : Host.Outcome State Fault Refusal :=
  s.checked ((s.tileSlotFault t).or (s.tileFault t)) <|
    .next (s.setRaw (s.raw.writeRange 0 32 (s.tileBytes t)))

/-- TST t (40_tile_codec R107). -/
def execTst (t : Nat) (s : State) : Host.Outcome State Fault Refusal :=
  s.checked ((s.tileSlotFault t).or s.rawFault) <|
    .next (s.setTile (s.tile.writeRange (tileKey t 0) 32 s.rawTile))

end Sys2Proof.Machine
end

