-- ==== Sys2Proof/Machine/Palette.lean ====
section
/-! DEFINITION. The palette converter and lookup, and the commands CV15 and CV24 (42_palette.md). -/

namespace Sys2Proof.Machine

/-- A 5-bit channel scaled to 8 bits: `channel * 8`, no low-bit replication (42_palette R180). -/
def scaleChannel (c : BitVec 5) : Byte := c.setWidth 8 * 8

/-- `Color15ToRGB(c)` (42_palette R180; 30_encoding R89). -/
def color15ToRgb (c : Color15) : Rgb :=
  { r := scaleChannel (c.extractLsb' 0 5)
    g := scaleChannel (c.extractLsb' 5 5)
    b := scaleChannel (c.extractLsb' 10 5) }

/-- The default `RGBTo15(R, G, B)`, the shift form (42_palette R182). -/
def rgbTo15Shift (c : Rgb) : Color15 :=
  (c.r >>> 3).setWidth 15 ||| ((c.g >>> 3).setWidth 15 <<< 5) ||| ((c.b >>> 3).setWidth 15 <<< 10)

/-- The parameter `RGB_TO_15` (00_scope R6, 42_palette R182; log 2). -/
def rgbTo15 (form : RgbTo15Form) (c : Rgb) : Color15 :=
  match form with
  | .shift => rgbTo15Shift c
  | .supplied => Config.suppliedRgbTo15 c.r c.g c.b

/-- The palette address `16 * pal + v`, 0..127 (42_palette R185). -/
def palAddr (pal : BitVec 3) (v : Pixel) : Nat := 16 * pal.toNat + v.toNat

/-- CV15 (42_palette R186). -/
def execCv15 (s : State) : Host.Outcome State Fault Refusal :=
  s.checked s.c15Fault (.next (s.setRgb (color15ToRgb s.c15)))

/-- CV24 (42_palette R187). -/
def execCv24 (s : State) : Host.Outcome State Fault Refusal :=
  s.checked s.rgbFault (.next (s.setC15 (rgbTo15 s.cfg.rgbTo15 s.rgb)))

end Sys2Proof.Machine
end

