-- ==== Sys2Proof/Machine/Compositor.lean ====
section
/-! DEFINITION. The compositor: entry parsing, drawing, rasterisation, and the commands EPRS, CCLR, DRAW, RAST, COMP
(41_compositor.md). -/

namespace Sys2Proof.Machine

/-- `ParseEntry(entry)` (41_compositor R130). -/
def parseEntry (entry : EntryBytes) : ParsedEntry :=
  { x := (entry 0).toNat - (if (entry 1).getLsbD 0 then 0x100 else 0)
    big := (entry 1 &&& 0xC2) == 0xC2
    y := (entry 2 &&& 0x7F).toNat - (if (entry 2).getLsbD 7 then 0x80 else 0)
    tile := entry 3
    vf := (entry 4).getLsbD 7
    hf := (entry 4).getLsbD 6
    prio := (entry 4).getLsbD 5
    pal := (entry 4).extractLsb' 2 3 }

/-- The quadrants an entry draws, in drawing order, `(qx, qy)` (41_compositor R133, R135). -/
def quadrants (e : ParsedEntry) : List (Bool × Bool) :=
  if e.big then [(false, false), (true, false), (false, true), (true, true)] else [(false, false)]

/-- The tile of quadrant `(qx, qy)`: `E.tile + qx + 0x10 * qy`, with no wrap (41_compositor R133). -/
def quadTile (e : ParsedEntry) (q : Bool × Bool) : Nat := e.tile.toNat + q.1.toNat + 0x10 * q.2.toNat

/-- `QuadOrigin(E, qx, qy)` (41_compositor R133). -/
def quadOrigin (e : ParsedEntry) (q : Bool × Bool) : Int × Int :=
  if e.big then (e.x + 8 * (q.1 ^^ e.hf).toNat, e.y + 8 * (q.2 ^^ e.vf).toNat) else (e.x, e.y)

/-- Where row or column `n` of a tile lands under a flip: `7 - n` or `n` (41_compositor R134). -/
def flipped (flip : Bool) (n : Nat) : Nat := if flip then 7 - n else n

/-- The paint of a non-zero pixel `v`: the looked-up colour in direct mode, the palette address in indexed mode
(41_compositor R135, 42_palette R184, R185). -/
def pixelPaint (mode : Mode) (palette : Memory Color15) (pal : BitVec 3) (v : Pixel) : Except FaultRecord Paint :=
  match mode with
  | .direct =>
    match palette.read (palAddr pal v) with
    | some c => .ok (.rgb (color15ToRgb c))
    | none => .error (palFault (palAddr pal v))
  | .indexed => .ok (.idx (BitVec.ofNat 7 (palAddr pal v)))

/-- One pixel of a quadrant (41_compositor R135): value 0 is transparent and never written. -/
def drawPixel (s : State) (e : ParsedEntry) (origin : Int × Int) (g : Grid) (m : Memory Paint) (p : Nat × Nat) :
    Except FaultRecord (Memory Paint) :=
  if g p.1 p.2 = 0 then .ok m
  else
    match pixelPaint s.mode s.pal e.pal (g p.1 p.2) with
    | .ok paint =>
      .ok (canvasWrite m (origin.1 + flipped e.hf p.2) (origin.2 + flipped e.vf p.1) paint)
    | .error f => .error f

/-- The pixels of a tile by row, then column (41_compositor R135). -/
def tilePixels : List (Nat × Nat) :=
  (List.range 8).flatMap (fun r => (List.range 8).map (fun c => (r, c)))

/-- One quadrant: read its tile, then draw its pixels (41_compositor R135). -/
def drawQuad (s : State) (e : ParsedEntry) (m : Memory Paint) (q : Bool × Bool) : Except FaultRecord (Memory Paint) :=
  match s.tileFault (quadTile e q) with
  | some f => .error f
  | none => runLoop (drawPixel s e (quadOrigin e q) (decodeTile (s.tileBytes (quadTile e q)))) tilePixels m

/-- `DrawEntry` onto the canvas `m` (41_compositor R135). -/
def drawEntry (s : State) (e : ParsedEntry) (m : Memory Paint) : Except FaultRecord (Memory Paint) :=
  runLoop (drawQuad s e) (quadrants e) m

/-- The least x of the written positions and the origin (41_compositor R139). -/
def minX (m : Memory Paint) : Int := m.foldl (fun b p => min b (keyX p.1)) 0

/-- The greatest x of the written positions and the origin (41_compositor R139). -/
def maxX (m : Memory Paint) : Int := m.foldl (fun b p => max b (keyX p.1)) 0

/-- The least y of the written positions and the origin (41_compositor R139). -/
def minY (m : Memory Paint) : Int := m.foldl (fun b p => min b (keyY p.1)) 0

/-- The greatest y of the written positions and the origin (41_compositor R139). -/
def maxY (m : Memory Paint) : Int := m.foldl (fun b p => max b (keyY p.1)) 0

/-- The raster of a canvas (41_compositor R139, R140): RBUF[j][i] is the canvas cell `(minx + i, miny + j)`, so every
painted position moves by the key of the box's corner. -/
def rasterOf (m : Memory Paint) : Raster :=
  { rw := (maxX m - minX m + 1).toNat
    rh := (maxY m - minY m + 1).toNat
    orgX := (-minX m).toNat
    orgY := (-minY m).toNat
    rbuf := m.map (fun p => (p.1 - canvasKey (minX m) (minY m), p.2)) }

/-- `Rasterise()` (41_compositor R140). -/
def State.rasterise (s : State) : State := s.setRaster (rasterOf s.canvas)

/-- One entry slot of a composition: its bytes must be written, then it is drawn (41_compositor R143, R145). -/
def drawSlot (s : State) (m : Memory Paint) (e : Nat) : Except FaultRecord (Memory Paint) :=
  match s.entryFault e with
  | some f => .error f
  | none => drawEntry s (parseEntry (s.entryBytes e)) m

/-- EPRS e (41_compositor R141). -/
def execEprs (e : Nat) (s : State) : Host.Outcome State Fault Refusal :=
  s.checked ((s.entrySlotFault e).or (s.entryFault e)) (.next (s.setEnt (parseEntry (s.entryBytes e))))

/-- CCLR (41_compositor R142). -/
def execCclr (s : State) : Host.Outcome State Fault Refusal := .next (s.setCanvas [])

/-- DRAW e (41_compositor R143); a fault inside DrawEntry leaves CANVAS unspecified (60_exceptions R204 b). -/
def execDraw (e : Nat) (s : State) : Host.Outcome State Fault Refusal :=
  s.checked ((s.entrySlotFault e).or (s.entryFault e)) <|
    match drawEntry s (parseEntry (s.entryBytes e)) s.canvas with
    | .ok m => .next (s.setCanvas m)
    | .error f => .next (s.raiseDrawing f)

/-- RAST (41_compositor R144). -/
def execRast (s : State) : Host.Outcome State Fault Refusal := .next s.rasterise

/-- COMP n (41_compositor R145). A fault inside DrawEntry leaves CANVAS unspecified; UNINIT leaves it as before COMP
(60_exceptions R204; log 7). -/
def execComp (n : Nat) (s : State) : Host.Outcome State Fault Refusal :=
  s.checked (s.countFault n) <|
    match runLoop (drawSlot s) (List.range n) [] with
    | .ok m => .next (s.setCanvas m).rasterise
    | .error f => .next (s.raiseDrawing f)

end Sys2Proof.Machine
end

