-- ==== Sys2Proof/Machine/Dispatch.lean ====
section
/-! DEFINITION. One arm per command: each calls its own meaning. -/

namespace Sys2Proof.Machine

/-- What the PTC does when it performs a command (10_state R40, 30_encoding R82). -/
def exec (i : Instr) (s : State) : Host.Outcome State Fault Refusal :=
  match i with
  | .tdec => Sys2Proof.Machine.execTdec s
  | .tenc => Sys2Proof.Machine.execTenc s
  | .tld t => Sys2Proof.Machine.execTld t s
  | .tst t => Sys2Proof.Machine.execTst t s
  | .eprs e => Sys2Proof.Machine.execEprs e s
  | .cclr => Sys2Proof.Machine.execCclr s
  | .draw e => Sys2Proof.Machine.execDraw e s
  | .rast => Sys2Proof.Machine.execRast s
  | .cv15 => Sys2Proof.Machine.execCv15 s
  | .cv24 => Sys2Proof.Machine.execCv24 s
  | .comp n => Sys2Proof.Machine.execComp n s

end Sys2Proof.Machine
end

