-- ==== Sys2Proof/Machine/Port.lean ====
section
/-! DEFINITION. The host port: its address map (20_memory R66), the host-word layouts (30_encoding R90, R91), what a
host read, a host write, a CMD write and a reset do (10_state R40, 60_exceptions R208, 70_reset R240). -/

namespace Sys2Proof.Machine

/-- The registers of 20_memory R66. -/
def registerAt (addr : Nat) : Option Port :=
  match addr with
  | 0x000000 => some .cmd
  | 0x000001 => some .status
  | 0x000002 => some .finfo
  | 0x000003 => some .ctrl
  | 0x000004 => some .c15
  | 0x000005 => some .rgb
  | 0x000006 => some .ent0
  | 0x000007 => some .ent1
  | 0x000008 => some .rsize
  | 0x000009 => some .rorg
  | _ => none

/-- `0x000100 + i`, i in 0..31. -/
def rawAt (addr : Nat) : Option Port :=
  if 0x000100 ≤ addr ∧ addr < 0x000100 + 32 then some (.raw (addr - 0x000100)) else none

/-- `0x000200 + k`, k in 0..63. -/
def pixAt (addr : Nat) : Option Port :=
  if 0x000200 ≤ addr ∧ addr < 0x000200 + 64 then some (.pix (addr - 0x000200)) else none

/-- `0x000400 + a`, a in 0..127. -/
def palAt (addr : Nat) : Option Port :=
  if 0x000400 ≤ addr ∧ addr < 0x000400 + 128 then some (.pal (addr - 0x000400)) else none

/-- `0x010000 + 8e + i`, e < N_ENTRIES, i in 0..4. -/
def entryAt (c : Config) (addr : Nat) : Option Port :=
  if 0x010000 ≤ addr ∧ addr < 0x010000 + 8 * c.nEntries ∧ (addr - 0x010000) % 8 < 5 then
    some (.entry ((addr - 0x010000) / 8) ((addr - 0x010000) % 8))
  else none

/-- `0x100000 + 32t + i`, t < N_TILES, i in 0..31. -/
def tileAt (c : Config) (addr : Nat) : Option Port :=
  if 0x100000 ≤ addr ∧ addr < 0x100000 + 32 * c.nTiles then
    some (.tile ((addr - 0x100000) / 32) ((addr - 0x100000) % 32))
  else none

/-- `0x400000 + 0x400j + i`, j in 0..270, i in 0..526. -/
def rbufAt (addr : Nat) : Option Port :=
  if 0x400000 ≤ addr ∧ (addr - 0x400000) / 0x400 < 271 ∧ (addr - 0x400000) % 0x400 < 527 then
    some (.rbuf ((addr - 0x400000) / 0x400) ((addr - 0x400000) % 0x400))
  else none

/-- The map of 20_memory R66: the element a port address names, `none` where the map lists none (R67). For parameters in
the ranges of 00_scope R6 no two rows overlap. -/
def portOf (c : Config) (addr : Nat) : Option Port :=
  (registerAt addr).or <| (rawAt addr).or <| (pixAt addr).or <| (palAt addr).or <|
    (entryAt c addr).or <| (tileAt c addr).or (rbufAt addr)

/-- The RGB register word: 31:24 zero, R 23:16, G 15:8, B 7:0 (30_encoding R90). -/
def rgbWord (c : Rgb) : Word := 0#8 ++ c.r ++ c.g ++ c.b

/-- A host write to RGB; bits 31:24 are discarded (30_encoding R90). -/
def rgbOfWord (w : Word) : Rgb :=
  { r := w.extractLsb' 16 8, g := w.extractLsb' 8 8, b := w.extractLsb' 0 8 }

/-- The raster cell word: bit 31 written, bit 30 indexed, 29:24 zero (30_encoding R90). -/
def cellWord : Cell → Word
  | none => 0x00000000
  | some (.rgb c) => 0x80#8 ++ c.r ++ c.g ++ c.b
  | some (.idx i) => 0xC0#8 ++ 0#17 ++ i

/-- ENT0: Y in 31:16, X in 15:0, both 16-bit two's complement (30_encoding R91). -/
def ent0Word (e : ParsedEntry) : Word := BitVec.ofInt 16 e.y ++ BitVec.ofInt 16 e.x

/-- ENT1: V 31, 30:20 zero, PRIO 19, VF 18, HF 17, BIG 16, 15:11 zero, PAL 10:8, TILE 7:0 (30_encoding R91). -/
def ent1Word (e : ParsedEntry) (v : Bool) : Word :=
  BitVec.ofBool v ++ 0#11 ++ BitVec.ofBool e.prio ++ BitVec.ofBool e.vf ++ BitVec.ofBool e.hf ++
    BitVec.ofBool e.big ++ 0#5 ++ e.pal ++ e.tile

/-- The bits of ENT1 that hold fields other than V, unspecified while ENT.V = 0 (30_encoding R91; log 14). -/
def ent1FieldMask : Word := 0x000F07FF

/-- Two 16-bit numbers as a port word, the first in 15:0, the second in 31:16 (RSIZE, RORG; 20_memory R66). -/
def pairWord (lo hi : Nat) : Word := BitVec.ofNat 16 hi ++ BitVec.ofNat 16 lo

/-- The host word of a palette entry filled from two bytes, the low byte first (20_memory R61). -/
def palWordOfBytes (first second : Byte) : Word := 0#16 ++ second ++ first

/-- A read that returns `w` and changes nothing. -/
def State.readAs (s : State) (w : Word) : State := s.setResult w

/-- A read of something unspecified: the next free word, cut to the bits of `mask` (10_state R29, 20_memory R64, R65; log 5). -/
def State.readFree (s : State) (mask : Word) : State :=
  (s.setResult (Config.freeWord s.draws &&& mask)).countDraw

/-- A read of an element of `w` bits: its value zero-extended, or an unspecified value of that width while its written
flag is 0 (10_state R29, 20_memory R64). -/
def State.readElement {w : Nat} (s : State) (v : Option (BitVec w)) : State :=
  match v with
  | some b => s.readAs (b.setWidth 32)
  | none => s.readFree (BitVec.ofNat 32 (2 ^ w - 1))

/-- A host read of one element (20_memory R66). -/
def hostRead (s : State) : Port → State
  | .cmd => s.readAs 0
  | .status => s.readAs s.status.word
  | .finfo => s.readAs s.finfo
  | .ctrl => s.readAs s.mode.word
  | .c15 => s.readElement (if s.c15V then some s.c15 else none)
  | .rgb => s.readElement (if s.rgbV then some ((rgbWord s.rgb).setWidth 24) else none)
  | .ent0 => if s.entV then s.readAs (ent0Word s.ent) else s.readFree 0xFFFFFFFF
  | .ent1 => if s.entV then s.readAs (ent1Word s.ent true) else s.readFree ent1FieldMask
  | .rsize => if s.status.rvalid then s.readAs (pairWord s.raster.rw s.raster.rh) else s.readFree 0xFFFFFFFF
  | .rorg => if s.status.rvalid then s.readAs (pairWord s.raster.orgX s.raster.orgY) else s.readFree 0xFFFFFFFF
  | .raw i => s.readElement (s.raw.read i)
  | .pix k => s.readElement (s.pix.read k)
  | .pal a => s.readElement (s.pal.read a)
  | .entry e i => s.readElement (s.entry.read (entryKey e i))
  | .tile t i => s.readElement (s.tile.read (tileKey t i))
  | .rbuf j i =>
    if s.status.rvalid ∧ i < s.raster.rw ∧ j < s.raster.rh then s.readAs (cellWord (s.raster.cellAt j i))
    else s.readFree 0xFFFFFFFF

/-- A host write of one element other than CMD: the bits above its width are discarded, a write to a read-only element
is ignored (20_memory R64, R66). The CMD arm is never reached: `hostOp` performs CMD writes. -/
def hostWrite (s : State) (w : Word) : Port → State
  | .cmd => s
  | .status => s
  | .finfo => s
  | .ctrl => s.setMode (Mode.ofWord w)
  | .c15 => s.setC15 (w.setWidth 15)
  | .rgb => s.setRgb (rgbOfWord w)
  | .ent0 => s
  | .ent1 => s
  | .rsize => s
  | .rorg => s
  | .raw i => s.setRaw (s.raw.write i (w.setWidth 8))
  | .pix k => s.setPix (s.pix.write k (w.setWidth 4))
  | .pal a => s.setPal (s.pal.write a (w.setWidth 15))
  | .entry e i => s.setEntry (s.entry.write (entryKey e i) (w.setWidth 8))
  | .tile t i => s.setTile (s.tile.write (tileKey t i) (w.setWidth 8))
  | .rbuf _ _ => s

/-- ILLEGAL_CMD records the command word (60_exceptions R200). -/
def illegalCmd (w : Word) : FaultRecord := { cause := .illegalCmd, info := w }

/-- A host write of `w` to CMD (10_state R40): ignored while faulted (60_exceptions R208); an illegal word raises
ILLEGAL_CMD and changes nothing else (30_encoding R83); a legal one is performed. -/
def cmdWrite (s : State) (w : Word) : Host.Outcome State Fault Refusal :=
  if s.status.fault then .next s
  else
    match decode w with
    | .ok i => exec i s
    | .error _ => .next (s.raise (illegalCmd w))

/-- One act of the host (20_memory R66, R67; 70_reset R240). -/
def hostOp (s : State) : HostOp → Host.Outcome State Fault Refusal
  | .reset => .next s.hostReset
  | .read addr =>
    match portOf s.cfg addr with
    | some p => .next (hostRead s p)
    | none => .refused (.unlistedPort addr)
  | .write addr w =>
    match portOf s.cfg addr with
    | some .cmd => cmdWrite s w
    | some p => .next (hostWrite s w p)
    | none => .refused (.unlistedPort addr)

/-- The next act of the host is performed; with none pending the PTC is idle and holds all state (60_exceptions R215;
log 3). -/
def nextHostOp (s : State) : Host.Outcome State Fault Refusal :=
  match s.host.pending with
  | [] => .next s
  | op :: rest => hostOp (s.setPending rest) op

end Sys2Proof.Machine
end

