-- ==== Sys2Proof/Machine/Step.lean ====
section
/-! DEFINITION. One step of the machine: the host's next access, a CMD write performing its command whole (20_memory R69). -/

namespace Sys2Proof.Machine

/-- One step (10_state R21, R22; 20_memory R69; log 3). -/
def step (s : State) : Host.Outcome State Fault Refusal := nextHostOp s

/-- `s` with the command word `w` as the host's next access, a write to CMD (log 4). -/
def State.withFetchWord (s : State) (nbits w : Nat) : State := s.placeCommand (tableWord nbits w)

end Sys2Proof.Machine
end

