-- ==== Sys2Proof/Machine/Assembler.lean ====
section
/-! DEFINITION. The assembler (30_encoding R85): one line of text to one command word. Text is a list of characters. -/

namespace Sys2Proof.Machine

/-- White space between the parts of a line (log 16). -/
def isBlank (c : Char) : Bool := c == ' ' || c == '\t'

/-- The line up to a comment, the text after `;` (30_encoding R85). -/
def dropComment : List Char → List Char
  | [] => []
  | c :: cs => if c == ';' then [] else c :: dropComment cs

/-- The words of a line; `cur` is the word being read, last character first. -/
def wordsFrom : List Char → List Char → List (List Char)
  | [], [] => []
  | [], cur => [cur.reverse]
  | c :: cs, cur =>
    if isBlank c then
      match cur with
      | [] => wordsFrom cs []
      | _ => cur.reverse :: wordsFrom cs []
    else wordsFrom cs (c :: cur)

/-- The value of a hexadecimal digit, small or capital (log 16). -/
def digitValue (c : Char) : Option Nat :=
  let n := c.toNat
  if 48 ≤ n ∧ n ≤ 57 then some (n - 48)
  else if 65 ≤ n ∧ n ≤ 70 then some (n - 55)
  else if 97 ≤ n ∧ n ≤ 102 then some (n - 87)
  else none

/-- The number the digits `ds` write in `base`, after the digits read so far gave `acc`. -/
def digitsFrom (base acc : Nat) : List Char → Option Nat
  | [] => some acc
  | d :: ds =>
    match digitValue d with
    | some v => if v < base then digitsFrom base (base * acc + v) ds else none
    | none => none

/-- An operand: a decimal or `0x`-prefixed hexadecimal number in 0..65535 (30_encoding R85). -/
def parseOperand (l : List Char) : Option Nat :=
  let value :=
    match l with
    | [] => none
    | ['0', 'x'] => none
    | '0' :: 'x' :: ds => digitsFrom 16 0 ds
    | ds => digitsFrom 10 0 ds
  match value with
  | some a => if operandFits a then some a else none
  | none => none

/-- A command written `MNEMONIC` (30_encoding R82, R85). -/
def plainCommand (m : List Char) : Option Instr :=
  if m = ['T', 'D', 'E', 'C'] then some .tdec
  else if m = ['T', 'E', 'N', 'C'] then some .tenc
  else if m = ['C', 'C', 'L', 'R'] then some .cclr
  else if m = ['R', 'A', 'S', 'T'] then some .rast
  else if m = ['C', 'V', '1', '5'] then some .cv15
  else if m = ['C', 'V', '2', '4'] then some .cv24
  else none

/-- A command written `MNEMONIC A` (30_encoding R82, R85). -/
def operandCommand (m : List Char) (a : Nat) : Option Instr :=
  if m = ['T', 'L', 'D'] then some (.tld a)
  else if m = ['T', 'S', 'T'] then some (.tst a)
  else if m = ['E', 'P', 'R', 'S'] then some (.eprs a)
  else if m = ['D', 'R', 'A', 'W'] then some (.draw a)
  else if m = ['C', 'O', 'M', 'P'] then some (.comp a)
  else none

/-- The command a line writes. -/
def parseLine (l : List Char) : Option Instr :=
  match wordsFrom (dropComment l) [] with
  | [m] => plainCommand m
  | [m, a] =>
    match parseOperand a with
    | some n => operandCommand m n
    | none => none
  | _ => none

/-- The word the assembler emits for a line; `none` for a line that is no command (30_encoding R85). -/
def assemble (l : List Char) : Option Word :=
  match parseLine l with
  | some i => some (encode i)
  | none => none

end Sys2Proof.Machine
end

