-- ==== Sys2Proof/Safety.lean ====
section
/-! DEFINITION. What counts as a safe run, and the words the statements are written in: a state whose every field is in
the range the spec gives it, elements that are written, the fault a command records, what an entry paints. -/

namespace Sys2Proof.Machine

/-- Every element of a memory lies under a key below `n`. -/
abbrev Memory.below {α : Type} (m : Memory α) (n : Nat) : Prop := ∀ p ∈ m, p.1 < n

/-- Elements `base .. base + n - 1` all have their written flag set (10_state R29). -/
abbrev Written {α : Type} (m : Memory α) (base n : Nat) : Prop := ∀ i < n, (m.read (base + i)).isSome = true

/-- Element `base + i` is the lowest unwritten one among `base .. base + n - 1` (60_exceptions R205). -/
abbrev LowestUnwritten {α : Type} (m : Memory α) (base n i : Nat) : Prop :=
  i < n ∧ m.read (base + i) = none ∧ Written m base i

/-- `s` after `raise Fault(c, info)` (60_exceptions R202). -/
def withFault (s : State) (c : Cause) (info : Word) : State :=
  { s with status := { fault := true, rvalid := s.status.rvalid, cause := some c }, finfo := info }

/-- `s` after a fault that leaves CANVAS unspecified: the canvas is some `m`, one free value was drawn
(60_exceptions R204 b). -/
def withLostCanvas (s : State) (m : Memory Paint) : State := { s with canvas := m, draws := s.draws + 1 }

/-- The positions of CANVAS (10_state R32). -/
abbrev InCanvas (x y : Int) : Prop := -256 ≤ x ∧ x ≤ 270 ∧ -128 ≤ y ∧ y ≤ 142

/-- The host has performed its first pending access; `rest` are the others. -/
def afterAccess (s : State) (rest : List HostOp) : State := { s with host := { s.host with pending := rest } }

/-- `s` after a host read that returned `w`. -/
def withResult (s : State) (w : Word) : State := { s with host := { s.host with result := some w } }

/-- The illegal words of 30_encoding R83 (a), (b), (c), by the fields OP, RSV and A of the word read as a number. -/
abbrev IllegalWord (w : Word) : Prop :=
  (w.toNat % 256 = 0 ∨ 0x0C ≤ w.toNat % 256) ∨ w.toNat / 256 % 256 ≠ 0 ∨
    (w.toNat % 256 ∈ [0x01, 0x02, 0x06, 0x08, 0x09, 0x0A] ∧ w.toNat / 65536 ≠ 0)

/-- The words with opcode `op` of a command without operand: `op` alone is command `i`, and every other one, RSV or A not 0,
raises ILLEGAL_CMD with FINFO = w and nothing else (30_encoding R80, R83). -/
def PlainCommandWords (s : State) (op : Nat) (i : Instr) : Prop :=
  ∀ w : Word, w.toNat % 256 = op → (w.toNat = op → decode w = .ok i) ∧
    (w.toNat ≠ op → s.status.fault = false → cmdWrite s w = .next (withFault s .illegalCmd w))

/-- The words with opcode `op` of a command with operand A: with RSV 0 the command on `A = w[31:16]`, else ILLEGAL_CMD with
FINFO = w and nothing else (30_encoding R80, R81, R83). -/
def OperandCommandWords (s : State) (op : Nat) (i : Nat → Instr) : Prop :=
  ∀ w : Word, w.toNat % 256 = op → (w.toNat / 256 % 256 = 0 → decode w = .ok (i (w.toNat / 65536))) ∧
    (w.toNat / 256 % 256 ≠ 0 → s.status.fault = false → cmdWrite s w = .next (withFault s .illegalCmd w))

/-- The port address of an element (20_memory R66). -/
def portAddress : Port → Nat
  | .cmd => 0x000000
  | .status => 0x000001
  | .finfo => 0x000002
  | .ctrl => 0x000003
  | .c15 => 0x000004
  | .rgb => 0x000005
  | .ent0 => 0x000006
  | .ent1 => 0x000007
  | .rsize => 0x000008
  | .rorg => 0x000009
  | .raw i => 0x000100 + i
  | .pix k => 0x000200 + k
  | .pal a => 0x000400 + a
  | .entry e i => 0x010000 + 8 * e + i
  | .tile t i => 0x100000 + 32 * t + i
  | .rbuf j i => 0x400000 + 0x400 * j + i

/-- The elements the map lists (20_memory R66). -/
def PortListed (c : Config) : Port → Prop
  | .raw i => i < 32
  | .pix k => k < 64
  | .pal a => a < 128
  | .entry e i => e < c.nEntries ∧ i < 5
  | .tile t i => t < c.nTiles ∧ i < 32
  | .rbuf j i => j < 271 ∧ i < 527
  | _ => True

/-- Element `p` is one a command reads and its written flag is 0 (10_state R29, 60_exceptions R200 code 5). -/
def ElementUnwritten (s : State) : Port → Prop
  | .raw i => s.raw.read i = none
  | .pix k => s.pix.read k = none
  | .entry e i => s.entry.read (8 * e + i) = none
  | .c15 => s.c15V = false
  | .rgb => s.rgbV = false
  | _ => False

/-- What 70_reset R240 says of the machine after reset: no element written, every canvas cell EMPTY, CTRL, STATUS and
FINFO 0. -/
abbrev ResetAsSpecified (s : State) : Prop :=
  ((∀ a, s.tile.read a = none) ∧ (∀ a, s.pal.read a = none) ∧ (∀ a, s.entry.read a = none) ∧
      (∀ a, s.raw.read a = none) ∧ (∀ a, s.pix.read a = none)) ∧
    (s.c15V = false ∧ s.rgbV = false ∧ s.entV = false) ∧
    (∀ x y, InCanvas x y → s.canvasAt x y = none) ∧
    (s.mode.word = 0 ∧ s.status.word = 0 ∧ s.finfo = 0)

/-- A canvas in canonical form, every painted position one of 10_state R32. -/
abbrev canvasWf (m : Memory Paint) : Prop := m.wf ∧ ∀ p ∈ m, p.1 % 1024 < 527 ∧ p.1 / 1024 < 271

/-- RASTER in the ranges of 10_state R33, 41_compositor R140, its cells inside RW x RH. -/
abbrev Raster.wf (r : Raster) : Prop :=
  (1 ≤ r.rw ∧ r.rw ≤ 527 ∧ 1 ≤ r.rh ∧ r.rh ≤ 271) ∧
    (r.orgX ≤ 256 ∧ r.orgX < r.rw ∧ r.orgY ≤ 128 ∧ r.orgY < r.rh) ∧
    r.rbuf.wf ∧ ∀ p ∈ r.rbuf, p.1 % 1024 < r.rw ∧ p.1 / 1024 < r.rh

/-- ENT in the ranges of 10_state R31. -/
abbrev ParsedEntry.wf (e : ParsedEntry) : Prop := -256 ≤ e.x ∧ e.x ≤ 255 ∧ -128 ≤ e.y ∧ e.y ≤ 127

/-- The memories in canonical form, every key one the spec's memory has (10_state R23 to R27). -/
abbrev State.memoriesWf (s : State) : Prop :=
  (s.tile.wf ∧ s.tile.below (32 * s.cfg.nTiles)) ∧ (s.pal.wf ∧ s.pal.below 128) ∧
    (s.entry.wf ∧ ∀ p ∈ s.entry, p.1 < 8 * s.cfg.nEntries ∧ p.1 % 8 < 5) ∧
    (s.raw.wf ∧ s.raw.below 32) ∧ (s.pix.wf ∧ s.pix.below 64)

/-- STATUS and FINFO agree: CAUSE is 0 exactly while FAULT is 0, and FINFO is 0 then (10_state R41, R43). -/
abbrev State.recordWf (s : State) : Prop :=
  s.status.cause.isSome = s.status.fault ∧ (s.status.fault = false → s.finfo = 0)

/-- The invariant: every element in the range and the form the spec gives it. -/
abbrev State.wf (s : State) : Prop :=
  s.cfg.wf ∧ s.memoriesWf ∧ canvasWf s.canvas ∧ s.ent.wf ∧ s.recordWf ∧ s.raster.wf

/-- Side of the square an entry covers (41_compositor R133). -/
def spriteSide (e : ParsedEntry) : Nat := if e.big then 16 else 8

/-- The tiles an entry draws, in drawing order (41_compositor R133, 70_reset R242). -/
def spriteTiles (e : ParsedEntry) : List Nat :=
  if e.big then [e.tile.toNat, e.tile.toNat + 1, e.tile.toNat + 0x10, e.tile.toNat + 0x11] else [e.tile.toNat]

/-- Offset `n` inside the square before mirroring: a flip mirrors the whole square (41_compositor R134). -/
def mirrored (flip : Bool) (side n : Nat) : Nat := if flip then side - 1 - n else n

/-- The pixel that lands at offset `(px, py)` of the square: the mirror of the 8 x 8 or 16 x 16 block whose tiles are
`tile`, `+1` to the right, `+0x10` below, `+0x11` below right (41_compositor R133, R134). -/
def spritePixel (s : State) (e : ParsedEntry) (px py : Nat) : Pixel :=
  let ux := mirrored e.hf (spriteSide e) px
  let uy := mirrored e.vf (spriteSide e) py
  decodeTile (s.tileBytes (e.tile.toNat + ux / 8 + 0x10 * (uy / 8))) (uy % 8) (ux % 8)

/-- The paint of pixel value `v` under palette `pal` (41_compositor R135): `RGB(Color15ToRGB(PAL[16 pal + v]))` in direct
mode, `IDX(16 pal + v)` in indexed mode. -/
def paintOf (s : State) (pal : BitVec 3) (v : Pixel) : Paint :=
  match s.mode with
  | .direct => .rgb (color15ToRgb (s.pal.value (16 * pal.toNat + v.toNat)))
  | .indexed => .idx (BitVec.ofNat 7 (16 * pal.toNat + v.toNat))

/-- What entry slot `k` paints at `(x, y)`: nothing outside its square or where its pixel is 0 (41_compositor R135). -/
def slotPaint (s : State) (k : Nat) (x y : Int) : Cell :=
  let e := parseEntry (s.entryBytes k)
  let px := (x - e.x).toNat
  let py := (y - e.y).toNat
  if e.x ≤ x ∧ x < e.x + spriteSide e ∧ e.y ≤ y ∧ y < e.y + spriteSide e ∧ spritePixel s e px py ≠ 0 then
    some (paintOf s e.pal (spritePixel s e px py))
  else none

/-- The cell slots `0 .. n-1` leave at `(x, y)` of an empty canvas: the highest slot that paints there (41_compositor R136, R145). -/
def composedCell (s : State) : Nat → Int → Int → Cell
  | 0, _, _ => none
  | n + 1, x, y => (slotPaint s n x y).or (composedCell s n x y)

/-- In direct mode a non-zero pixel needs its palette entry written (42_palette R184); pixel `(r, c)` of tile `t` has it. -/
abbrev PixelPaintable (s : State) (pal : BitVec 3) (t r c : Nat) : Prop :=
  s.mode = .indexed ∨ decodeTile (s.tileBytes t) r c = 0 ∨
    (s.pal.read (16 * pal.toNat + (decodeTile (s.tileBytes t) r c).toNat)).isSome = true

/-- Tile slot `t` exists and all of it is written: `TileRead(t)` answers (41_compositor R132). -/
abbrev TileReadable (s : State) (t : Nat) : Prop := t < s.cfg.nTiles ∧ Written s.tile (32 * t) 32

/-- Quadrant tile `t` can be drawn: it is readable and each of its pixels paintable (70_reset R242). -/
abbrev TileDrawable (s : State) (pal : BitVec 3) (t : Nat) : Prop :=
  TileReadable s t ∧ ∀ r < 8, ∀ c < 8, PixelPaintable s pal t r c

/-- What must be written before `DRAW k` (70_reset R242). -/
abbrev SlotDrawable (s : State) (k : Nat) : Prop :=
  Written s.entry (8 * k) 5 ∧
    ∀ t ∈ spriteTiles (parseEntry (s.entryBytes k)), TileDrawable s (parseEntry (s.entryBytes k)).pal t

/-- `DRAW 0 .. DRAW (n-1)`. -/
def drawCommands (n : Nat) : List Instr := (List.range n).map Instr.draw

/-- Commands performed one after the other; after a fault the PTC takes no further one (60_exceptions R202, R208). -/
def performAll : List Instr → State → Host.Outcome State Fault Refusal
  | [], s => .next s
  | i :: is, s =>
    match exec i s with
    | .next t => if t.status.fault then .next t else performAll is t
    | .fault f => .fault f
    | .refused r => .refused r

end Sys2Proof.Machine
end

