-- ==== Sys2Proof/Certificates/Slice0/Obligations.lean ====
section
/-! DEFINITION. The statements about the PTC, from the spec's numbered rules. -/

open Sys2Proof Sys2Proof.Machine

/-! ### Encodings -/

/-- Every well-formed command is read back from its word, its operand at every value 0..65535 (30_encoding R80 to R82, R85). -/
def Obligations.DecodeReadsEncodedCommand : Prop :=
  ∀ i : Instr, WellFormed i = true → decode (encode i) = .ok i

/-- 30_encoding R84: every word is one row of the opcode map with its fields legal, and then it is the word of exactly
that command, or it is illegal by R83. -/
def Obligations.EveryWordIsOneCommandOrIllegal : Prop :=
  ∀ w : Word,
    (IllegalWord w ∧ ∃ e, decode w = .error e) ∨
      (¬ IllegalWord w ∧ ∃ i, decode w = .ok i ∧ WellFormed i = true ∧ encode i = w ∧
        ∀ j, WellFormed j = true → encode j = w → j = i)

/-- The opcode map (30_encoding R82): the five operand commands take A = w[31:16] unsigned, unscaled (R81); the six
others are one word each. -/
def Obligations.OpcodeMapReadsOperandField : Prop :=
  (∀ w : Word,
    (w.toNat % 65536 = 0x03 → decode w = .ok (.tld (w.toNat / 65536))) ∧
    (w.toNat % 65536 = 0x04 → decode w = .ok (.tst (w.toNat / 65536))) ∧
    (w.toNat % 65536 = 0x05 → decode w = .ok (.eprs (w.toNat / 65536))) ∧
    (w.toNat % 65536 = 0x07 → decode w = .ok (.draw (w.toNat / 65536))) ∧
    (w.toNat % 65536 = 0x0B → decode w = .ok (.comp (w.toNat / 65536)))) ∧
  decode 0x00000001 = .ok .tdec ∧ decode 0x00000002 = .ok .tenc ∧ decode 0x00000006 = .ok .cclr ∧
  decode 0x00000008 = .ok .rast ∧ decode 0x00000009 = .ok .cv15 ∧ decode 0x0000000A = .ok .cv24

/-- Words written out bit by bit from 30_encoding R80, R82: A 31:16, RSV 15:8, OP 7:0. -/
def Obligations.WordsWrittenOutDecode : Prop :=
  decode 0b0000000000000000_00000000_00000001 = .ok .tdec ∧
  decode 0b0000000000000101_00000000_00000100 = .ok (.tst 5) ∧
  decode 0b1111111111111111_00000000_00000111 = .ok (.draw 65535) ∧
  decode 0b0000000000000001_00000000_00001011 = .ok (.comp 1) ∧
  decode 0b0000000000000000_00000000_00001010 = .ok .cv24

/-- 30_encoding R85: a line `MNEMONIC` or `MNEMONIC A`, A decimal or `0x` hexadecimal in 0..65535 (digits `ds`), text
after `;` a comment, gives the word `(A << 16) | OP`. The one blank between the two parts and the digits in either case,
mixed at will (`text`), are the model's choice (log 16, DESIGN CHOICE): R85 names neither the separator nor the digits. -/
def Obligations.AssemblerEmitsCommandWord : Prop :=
  (assemble ['T', 'D', 'E', 'C'] = some 0x01 ∧ assemble ['T', 'E', 'N', 'C'] = some 0x02 ∧
    assemble ['C', 'C', 'L', 'R'] = some 0x06 ∧ assemble ['R', 'A', 'S', 'T'] = some 0x08 ∧
    assemble ['C', 'V', '1', '5'] = some 0x09 ∧ assemble ['C', 'V', '2', '4'] = some 0x0A) ∧
  (∀ p ∈ [(['T', 'L', 'D'], 0x03), (['T', 'S', 'T'], 0x04), (['E', 'P', 'R', 'S'], 0x05), (['D', 'R', 'A', 'W'], 0x07),
      (['C', 'O', 'M', 'P'], 0x0B)],
    ∀ ds : List Nat, ds ≠ [] →
      ((∀ d ∈ ds, d < 10) → ds.foldl (fun a d => 10 * a + d) 0 < 65536 →
        assemble (p.1 ++ ' ' :: ds.map Nat.digitChar) =
          some (BitVec.ofNat 32 (65536 * ds.foldl (fun a d => 10 * a + d) 0 + p.2))) ∧
      ((∀ d ∈ ds, d < 16) → ds.foldl (fun a d => 16 * a + d) 0 < 65536 →
        ∀ text : List Char, List.Forall₂ (fun c d => c = Nat.digitChar d ∨ c = (Nat.digitChar d).toUpper) text ds →
          assemble (p.1 ++ ' ' :: '0' :: 'x' :: text) =
            some (BitVec.ofNat 32 (65536 * ds.foldl (fun a d => 16 * a + d) 0 + p.2)))) ∧
  (∀ l comment, assemble (l ++ ';' :: comment) = assemble l)

/-! ### The step: CMD writes, faults, reset -/

/-- A step at which the host writes a legal word to CMD of a PTC that is not faulted performs that command whole
(10_state R40, 20_memory R69). -/
def Obligations.StepPerformsDecodedCommand : Prop :=
  ∀ (s : State) (w : Word) (i : Instr) (rest : List HostOp),
    s.host.pending = .write 0x000000 w :: rest → s.status.fault = false → decode w = .ok i →
      step s = exec i (afterAccess s rest)

/-- `withFetchWord` makes the very next step run the word's command (the model's own convention, log 4). -/
def Obligations.FetchWordRunsNext : Prop :=
  ∀ (s : State) (nbits w : Nat) (i : Instr),
    s.status.fault = false → decodeTableWord nbits w = some i → step (s.withFetchWord nbits w) = exec i s

/-- 30_encoding R83: an illegal word raises ILLEGAL_CMD with FINFO = w and changes nothing else. -/
def Obligations.IllegalWordRaisesIllegalCmd : Prop :=
  ∀ (s : State) (w : Word) (rest : List HostOp),
    s.host.pending = .write 0x000000 w :: rest → s.status.fault = false → IllegalWord w →
      step s = .next (withFault (afterAccess s rest) .illegalCmd w)

/-- 60_exceptions R208: while faulted a CMD write changes nothing; every other access works as while idle: a write and
a read do to a faulted PTC what they do to the PTC with any other fault record, STATUS and FINFO alone reading the record. -/
def Obligations.FaultedPtcIgnoresCommandsOnly : Prop :=
  (∀ (s : State) (w : Word) (rest : List HostOp),
    s.host.pending = .write 0x000000 w :: rest → s.status.fault = true → step s = .next (afterAccess s rest)) ∧
  (∀ (s t : State) (c : Cause) (info w : Word) (addr : Nat) (rest : List HostOp),
    s.host.pending = .write addr w :: rest → addr ≠ 0x000000 → step s = .next t →
      step (withFault s c info) = .next (withFault t c info)) ∧
  (∀ (s t : State) (c : Cause) (info : Word) (addr : Nat) (rest : List HostOp),
    s.host.pending = .read addr :: rest → step s = .next t →
      (addr ≠ 0x000001 → addr ≠ 0x000002 → step (withFault s c info) = .next (withFault t c info)) ∧
      (addr = 0x000001 → step (withFault s c info) =
        .next (withResult (withFault (afterAccess s rest) c info)
          (BitVec.ofNat 32 (1 + 2 * s.status.rvalid.toNat + 256 * c.code.toNat)))) ∧
      (addr = 0x000002 → step (withFault s c info) =
        .next (withResult (withFault (afterAccess s rest) c info) info)))

/-- Every step answers a next state, but for a host access of a port address the map does not list (20_memory R67). -/
def Obligations.StepStopsOnlyOnUnlistedPort : Prop :=
  ∀ s : State,
    (∃ t, step s = .next t) ∨
      ∃ addr rest, (s.host.pending = .read addr :: rest ∨ ∃ w, s.host.pending = .write addr w :: rest) ∧
        (∀ p, PortListed s.cfg p → portAddress p ≠ addr) ∧ step s = .refused (.unlistedPort addr)

/-- 70_reset R240, R241: reset, from every state and at power-on, sets every element to its reset value. The model's own: the
parameters stand at the defaults of 00_scope R6 at power-on (log 1) and are no elements, so a reset keeps them (log 12). -/
def Obligations.ResetSetsEveryElement : Prop :=
  ResetAsSpecified State.reset ∧ State.reset.cfg = Config.standard ∧
  ∀ (s : State) (rest : List HostOp), s.host.pending = .reset :: rest →
    ∃ t, step s = .next t ∧ ResetAsSpecified t ∧ t.cfg = s.cfg

/-- 60_exceptions R207: only reset leaves the faulted state, and CAUSE and FINFO keep the first fault until then. -/
def Obligations.OnlyResetLeavesFaultedState : Prop :=
  ∀ s t : State, step s = .next t → s.status.fault = true →
    (∃ rest, s.host.pending = .reset :: rest) ∨
      (t.status.fault = true ∧ t.status.cause = s.status.cause ∧ t.finfo = s.finfo)

/-- 10_state R29: a written flag is cleared by nothing but reset; 10_state R41: nor is STATUS.RVALID. -/
def Obligations.WrittenFlagsStayUntilReset : Prop :=
  ∀ s t : State, step s = .next t → (∀ rest, s.host.pending ≠ .reset :: rest) →
    (∀ a, (s.tile.read a).isSome = true → (t.tile.read a).isSome = true) ∧
    (∀ a, (s.pal.read a).isSome = true → (t.pal.read a).isSome = true) ∧
    (∀ a, (s.entry.read a).isSome = true → (t.entry.read a).isSome = true) ∧
    (∀ a, (s.raw.read a).isSome = true → (t.raw.read a).isSome = true) ∧
    (∀ a, (s.pix.read a).isSome = true → (t.pix.read a).isSome = true) ∧
    (s.c15V = true → t.c15V = true) ∧ (s.rgbV = true → t.rgbV = true) ∧ (s.entV = true → t.entV = true) ∧
    (s.status.rvalid = true → t.status.rvalid = true)

/-- Which command may change which element (10_state R23 to R33, R42; 92 D27): an element a command is not named for is
as before it. -/
def Obligations.CommandsWriteOnlyTheirElements : Prop :=
  ∀ (i : Instr) (s t : State), exec i s = .next t →
    (t.pal = s.pal ∧ t.entry = s.entry ∧ t.mode = s.mode ∧ t.cfg = s.cfg ∧ t.host = s.host) ∧
    ((∀ u, i ≠ .tst u) → t.tile = s.tile) ∧
    (i ≠ .tenc → (∀ u, i ≠ .tld u) → t.raw = s.raw) ∧
    (i ≠ .tdec → t.pix = s.pix) ∧
    (i ≠ .cv24 → t.c15 = s.c15 ∧ t.c15V = s.c15V) ∧
    (i ≠ .cv15 → t.rgb = s.rgb ∧ t.rgbV = s.rgbV) ∧
    ((∀ e, i ≠ .eprs e) → t.ent = s.ent ∧ t.entV = s.entV) ∧
    (i ≠ .cclr → (∀ e, i ≠ .draw e) → (∀ n, i ≠ .comp n) → t.canvas = s.canvas ∧ t.draws = s.draws) ∧
    (i ≠ .rast → (∀ n, i ≠ .comp n) → t.raster = s.raster ∧ t.status.rvalid = s.status.rvalid)

/-- 60_exceptions R204 (for COMP's UNINIT and OPERAND_RANGE against 41_compositor R145, log 7): a command that faults leaves
everything but STATUS and FINFO, and CANVAS only for TILE_MISSING or PAL_MISSING of DRAW or COMP. -/
def Obligations.FaultingCommandLeavesOtherState : Prop :=
  ∀ (i : Instr) (s t : State), s.status.fault = false → exec i s = .next t → t.status.fault = true →
    ∃ c info, t = withFault s c info ∨
      (∃ m, canvasWf m ∧ t = withFault (withLostCanvas s m) c info ∧
        ((∃ e, i = .draw e) ∨ ∃ n, i = .comp n) ∧ (c = .tileMissing ∨ c = .palMissing))

/-- 60_exceptions R203, with the last column of R200: FINFO is written only by a fault, and what a command records there:
its operand; a tile index that cannot be read, at most 0x110 in a draw; a palette address 1..127, no multiple of 16, whose
entry is unwritten; the port address of an unwritten element. -/
def Obligations.FaultInfoNamesWhatIsMissing : Prop :=
  ∀ (i : Instr) (s t : State), s.status.fault = false → exec i s = .next t →
    (t.status.fault = false → t.finfo = s.finfo) ∧
    (t.status.fault = true →
      (t.status.cause = some .operandRange ∧ t.finfo = BitVec.ofNat 32 i.operand) ∨
      (t.status.cause = some .tileMissing ∧ ∃ n, t.finfo = BitVec.ofNat 32 n ∧ ¬ TileReadable s n ∧
        ((i = .tld n ∧ n < s.cfg.nTiles) ∨ (((∃ e, i = .draw e) ∨ ∃ k, i = .comp k) ∧ n ≤ 0x110))) ∨
      (t.status.cause = some .palMissing ∧ s.mode = .direct ∧ ((∃ e, i = .draw e) ∨ ∃ k, i = .comp k) ∧
        ∃ a, t.finfo = BitVec.ofNat 32 a ∧ s.pal.read a = none ∧ a ≤ 127 ∧ a % 16 ≠ 0) ∨
      (t.status.cause = some .uninit ∧ ∃ p, t.finfo = BitVec.ofNat 32 (portAddress p) ∧ PortListed s.cfg p ∧
        ElementUnwritten s p))

/-! ### The host port -/

/-- The map of 20_memory R66, and R67: a port address names an element exactly when it is that element's address. -/
def Obligations.PortMapListsExactlyTheseAddresses : Prop :=
  ∀ (c : Config) (addr : Nat) (p : Port), c.wf →
    (portOf c addr = some p ↔ PortListed c p ∧ addr = portAddress p)

/-- A host write stores the low bits of the port word the element's width takes, sets its written flag and changes
nothing else; a write to a read-only element changes nothing (20_memory R64, R65, R66; 10_state R29, R42). -/
def Obligations.HostWriteStoresOneElement : Prop :=
  ∀ (s : State) (w : Word) (addr : Nat) (rest : List HostOp), s.cfg.wf → s.host.pending = .write addr w :: rest →
    (∀ i < 32, addr = 0x000100 + i → ∃ m, step s = .next { afterAccess s rest with raw := m } ∧
      ∀ k, m.read k = if k = i then some (w.setWidth 8) else s.raw.read k) ∧
    (∀ i < 64, addr = 0x000200 + i → ∃ m, step s = .next { afterAccess s rest with pix := m } ∧
      ∀ k, m.read k = if k = i then some (w.setWidth 4) else s.pix.read k) ∧
    (∀ a < 128, addr = 0x000400 + a → ∃ m, step s = .next { afterAccess s rest with pal := m } ∧
      ∀ k, m.read k = if k = a then some (w.setWidth 15) else s.pal.read k) ∧
    (∀ e < s.cfg.nEntries, ∀ i < 5, addr = 0x010000 + 8 * e + i →
      ∃ m, step s = .next { afterAccess s rest with entry := m } ∧
        ∀ k, m.read k = if k = 8 * e + i then some (w.setWidth 8) else s.entry.read k) ∧
    (∀ t < s.cfg.nTiles, ∀ i < 32, addr = 0x100000 + 32 * t + i →
      ∃ m, step s = .next { afterAccess s rest with tile := m } ∧
        ∀ k, m.read k = if k = 32 * t + i then some (w.setWidth 8) else s.tile.read k) ∧
    (addr = 0x000003 →
      step s = .next { afterAccess s rest with mode := if w.toNat % 2 = 1 then .indexed else .direct }) ∧
    (addr = 0x000004 → step s = .next { afterAccess s rest with c15 := w.setWidth 15, c15V := true }) ∧
    (addr = 0x000005 → step s = .next { afterAccess s rest with
      rgb := { r := BitVec.ofNat 8 (w.toNat / 65536), g := BitVec.ofNat 8 (w.toNat / 256), b := BitVec.ofNat 8 w.toNat },
      rgbV := true }) ∧
    (addr ∈ [0x000001, 0x000002, 0x000006, 0x000007, 0x000008, 0x000009] → step s = .next (afterAccess s rest)) ∧
    (∀ j < 271, ∀ i < 527, addr = 0x400000 + 0x400 * j + i → step s = .next (afterAccess s rest))

/-- A host read of a written element returns it zero-extended and changes nothing else (20_memory R64, R65). -/
def Obligations.HostReadReturnsWrittenElement : Prop :=
  ∀ (s : State) (addr : Nat) (rest : List HostOp), s.cfg.wf → s.host.pending = .read addr :: rest →
    (∀ i < 32, addr = 0x000100 + i → ∀ v, s.raw.read i = some v →
      step s = .next (withResult (afterAccess s rest) (v.setWidth 32))) ∧
    (∀ k < 64, addr = 0x000200 + k → ∀ v, s.pix.read k = some v →
      step s = .next (withResult (afterAccess s rest) (v.setWidth 32))) ∧
    (∀ a < 128, addr = 0x000400 + a → ∀ v, s.pal.read a = some v →
      step s = .next (withResult (afterAccess s rest) (v.setWidth 32))) ∧
    (∀ e < s.cfg.nEntries, ∀ i < 5, addr = 0x010000 + 8 * e + i → ∀ v, s.entry.read (8 * e + i) = some v →
      step s = .next (withResult (afterAccess s rest) (v.setWidth 32))) ∧
    (∀ t < s.cfg.nTiles, ∀ i < 32, addr = 0x100000 + 32 * t + i → ∀ v, s.tile.read (32 * t + i) = some v →
      step s = .next (withResult (afterAccess s rest) (v.setWidth 32))) ∧
    (addr = 0x000004 → s.c15V = true → step s = .next (withResult (afterAccess s rest) (s.c15.setWidth 32))) ∧
    (addr = 0x000005 → s.rgbV = true → step s = .next (withResult (afterAccess s rest)
      (BitVec.ofNat 32 (65536 * s.rgb.r.toNat + 256 * s.rgb.g.toNat + s.rgb.b.toNat))))

/-- A host read of an element whose written flag is 0 returns some value of the element's width and has no other effect
than drawing it (10_state R29, 20_memory R64, R65). -/
def Obligations.HostReadOfUnwrittenElementHasNoEffect : Prop :=
  ∀ (s : State) (addr : Nat) (rest : List HostOp), s.cfg.wf → s.host.pending = .read addr :: rest →
    let reads (width : Nat) : Prop := ∃ v : Word, v.toNat < 2 ^ width ∧
      step s = .next { withResult (afterAccess s rest) v with draws := s.draws + 1 }
    (∀ i < 32, addr = 0x000100 + i → s.raw.read i = none → reads 8) ∧
    (∀ k < 64, addr = 0x000200 + k → s.pix.read k = none → reads 4) ∧
    (∀ a < 128, addr = 0x000400 + a → s.pal.read a = none → reads 15) ∧
    (∀ e < s.cfg.nEntries, ∀ i < 5, addr = 0x010000 + 8 * e + i → s.entry.read (8 * e + i) = none → reads 8) ∧
    (∀ t < s.cfg.nTiles, ∀ i < 32, addr = 0x100000 + 32 * t + i → s.tile.read (32 * t + i) = none → reads 8) ∧
    (addr = 0x000004 → s.c15V = false → reads 15) ∧
    (addr = 0x000005 → s.rgbV = false → reads 24)

/-- A host read of RSIZE, RORG or a raster cell while RVALID is 0, of a cell outside RW x RH, of ENT0 while ENT.V is 0 returns
some word, and of ENT1 while ENT.V is 0 some word whose V bit and zero bits are 0; it has no other effect than drawing it
(10_state R33, 20_memory R65, R66, 30_encoding R91; that all 32 bits of the others are open is the model's choice, log 14). -/
def Obligations.HostReadOfInvalidOutputHasNoEffect : Prop :=
  ∀ (s : State) (addr : Nat) (rest : List HostOp), s.cfg.wf → s.host.pending = .read addr :: rest →
    let reads (ok : Word → Prop) : Prop := ∃ v : Word, ok v ∧
      step s = .next { withResult (afterAccess s rest) v with draws := s.draws + 1 }
    (addr ∈ [0x000008, 0x000009] → s.status.rvalid = false → reads (fun _ => True)) ∧
    (∀ j < 271, ∀ i < 527, addr = 0x400000 + 0x400 * j + i →
      (s.status.rvalid = false ∨ s.raster.rw ≤ i ∨ s.raster.rh ≤ j) → reads (fun _ => True)) ∧
    (addr = 0x000006 → s.entV = false → reads (fun _ => True)) ∧
    (addr = 0x000007 → s.entV = false → reads (fun v => v.toNat / 0x100000 = 0 ∧ v.toNat / 0x800 % 32 = 0))

/-- 20_memory R61: a palette entry filled from two bytes takes bits 7:0 from the first byte and bits 14:8 from the second,
whose bit 7 is discarded. -/
def Obligations.PaletteWordTakesLowByteFirst : Prop :=
  ∀ (s : State) (first second : Byte) (a : Nat) (rest : List HostOp), a < 128 →
    s.host.pending = .write (0x000400 + a) (palWordOfBytes first second) :: rest →
      ∃ t v, step s = .next t ∧ t.pal.read a = some v ∧ v.toNat = first.toNat + 256 * (second.toNat % 128)

/-- The layouts of the register words: CMD reads 0 (10_state R40); STATUS (R41) with the codes of 60_exceptions R200;
FINFO (R43); CTRL (R42); ENT0, ENT1 (30_encoding R91); RSIZE, RORG (20_memory R66). -/
def Obligations.HostReadsRegisterWords : Prop :=
  ∀ (s : State) (addr : Nat) (rest : List HostOp), s.host.pending = .read addr :: rest →
    let reads (n : Nat) : Prop := step s = .next (withResult (afterAccess s rest) (BitVec.ofNat 32 n))
    (addr = 0x000000 → reads 0) ∧
    (addr = 0x000001 → ∀ code, (s.status.cause, code) ∈ [(none, 0), (some .illegalCmd, 1), (some .operandRange, 2),
        (some .tileMissing, 3), (some .palMissing, 4), (some .uninit, 5)] →
      reads (s.status.fault.toNat + 2 * s.status.rvalid.toNat + 256 * code)) ∧
    (addr = 0x000002 → reads s.finfo.toNat) ∧
    (addr = 0x000003 → reads (if s.mode = .indexed then 1 else 0)) ∧
    (addr = 0x000006 → s.entV = true → reads ((s.ent.x % 65536).toNat + 65536 * (s.ent.y % 65536).toNat)) ∧
    (addr = 0x000007 → s.entV = true → reads (s.ent.tile.toNat + 256 * s.ent.pal.toNat + 65536 * s.ent.big.toNat +
      131072 * s.ent.hf.toNat + 262144 * s.ent.vf.toNat + 524288 * s.ent.prio.toNat + 2147483648)) ∧
    (addr = 0x000008 → s.status.rvalid = true → reads (s.raster.rw % 65536 + 65536 * (s.raster.rh % 65536))) ∧
    (addr = 0x000009 → s.status.rvalid = true → reads (s.raster.orgX % 65536 + 65536 * (s.raster.orgY % 65536)))

/-- 30_encoding R90, the raster cell word, at every cell of a valid raster (20_memory R66). -/
def Obligations.HostReadsRasterCellWords : Prop :=
  ∀ (s : State) (j i : Nat) (rest : List HostOp), s.cfg.wf → s.host.pending = .read (0x400000 + 0x400 * j + i) :: rest →
    s.status.rvalid = true → j < s.raster.rh → i < s.raster.rw → j < 271 → i < 527 →
      (s.raster.cellAt j i = none → step s = .next (withResult (afterAccess s rest) 0)) ∧
      (∀ c, s.raster.cellAt j i = some (.rgb c) → step s = .next (withResult (afterAccess s rest)
        (BitVec.ofNat 32 (0x80000000 + 65536 * c.r.toNat + 256 * c.g.toNat + c.b.toNat)))) ∧
      (∀ a, s.raster.cellAt j i = some (.idx a) → step s = .next (withResult (afterAccess s rest)
        (BitVec.ofNat 32 (0xC0000000 + a.toNat))))

/-! ### The tile codec -/

/-- 40_tile_codec R104 (TDEC), with DecodeTile of R100: its word, its fault, its result and its frame. -/
def Obligations.TdecDecodesRawIntoPix : Prop :=
  ∀ s : State,
    PlainCommandWords s 0x01 .tdec ∧
    (∀ i, LowestUnwritten s.raw 0 32 i →
      exec .tdec s = .next (withFault s .uninit (BitVec.ofNat 32 (0x000100 + i)))) ∧
    (Written s.raw 0 32 → ∃ m, exec .tdec s = .next { s with pix := m } ∧
      (∀ r < 8, ∀ c < 8, ∃ v, m.read (8 * r + c) = some v ∧ v.toNat =
        ((s.raw.value (2 * r)).getLsbD (7 - c)).toNat + 2 * ((s.raw.value (2 * r + 1)).getLsbD (7 - c)).toNat +
          4 * ((s.raw.value (16 + 2 * r)).getLsbD (7 - c)).toNat +
          8 * ((s.raw.value (17 + 2 * r)).getLsbD (7 - c)).toNat) ∧
      ∀ k, 64 ≤ k → m.read k = s.pix.read k)

/-- 40_tile_codec R105 (TENC), with EncodeTile of R101: its word, its fault, its result and its frame. -/
def Obligations.TencEncodesPixIntoRaw : Prop :=
  ∀ s : State,
    PlainCommandWords s 0x02 .tenc ∧
    (∀ k, LowestUnwritten s.pix 0 64 k →
      exec .tenc s = .next (withFault s .uninit (BitVec.ofNat 32 (0x000200 + k)))) ∧
    (Written s.pix 0 64 → ∃ m, exec .tenc s = .next { s with raw := m } ∧ Written m 0 32 ∧
      (∀ r < 8, ∀ c < 8,
        (m.value (2 * r)).getLsbD (7 - c) = (s.pix.value (8 * r + c)).getLsbD 0 ∧
        (m.value (2 * r + 1)).getLsbD (7 - c) = (s.pix.value (8 * r + c)).getLsbD 1 ∧
        (m.value (16 + 2 * r)).getLsbD (7 - c) = (s.pix.value (8 * r + c)).getLsbD 2 ∧
        (m.value (17 + 2 * r)).getLsbD (7 - c) = (s.pix.value (8 * r + c)).getLsbD 3) ∧
      ∀ k, 32 ≤ k → m.read k = s.raw.read k)

/-- 40_tile_codec R106 (TLD): its words, its faults in order, its result and its frame. -/
def Obligations.TldCopiesTileIntoRaw : Prop :=
  ∀ (s : State) (t : Nat),
    OperandCommandWords s 0x03 .tld ∧
    (s.cfg.nTiles ≤ t → exec (.tld t) s = .next (withFault s .operandRange (BitVec.ofNat 32 t))) ∧
    (t < s.cfg.nTiles → ¬ Written s.tile (32 * t) 32 →
      exec (.tld t) s = .next (withFault s .tileMissing (BitVec.ofNat 32 t))) ∧
    (t < s.cfg.nTiles → Written s.tile (32 * t) 32 → ∃ m, exec (.tld t) s = .next { s with raw := m } ∧
      (∀ i < 32, m.read i = s.tile.read (32 * t + i)) ∧ ∀ k, 32 ≤ k → m.read k = s.raw.read k)

/-- 40_tile_codec R107 (TST): its words, its faults in order, its result and its frame. -/
def Obligations.TstStoresRawIntoTile : Prop :=
  ∀ (s : State) (t : Nat),
    OperandCommandWords s 0x04 .tst ∧
    (s.cfg.nTiles ≤ t → exec (.tst t) s = .next (withFault s .operandRange (BitVec.ofNat 32 t))) ∧
    (t < s.cfg.nTiles → ∀ i, LowestUnwritten s.raw 0 32 i →
      exec (.tst t) s = .next (withFault s .uninit (BitVec.ofNat 32 (0x000100 + i)))) ∧
    (t < s.cfg.nTiles → Written s.raw 0 32 → ∃ m, exec (.tst t) s = .next { s with tile := m } ∧
      (∀ i < 32, m.read (32 * t + i) = s.raw.read i) ∧
      ∀ k, (k < 32 * t ∨ 32 * t + 32 ≤ k) → m.read k = s.tile.read k)

/-- 40_tile_codec R102: DecodeTile and EncodeTile are mutually inverse; so TENC after TDEC restores RAW and TDEC after
TENC restores PIX. -/
def Obligations.DecodeAndEncodeTileAreInverse : Prop :=
  (∀ (raw : Tile), ∀ i < 32, encodeTile (decodeTile raw) i = raw i) ∧
  (∀ (g : Grid), ∀ r < 8, ∀ c < 8, decodeTile (encodeTile g) r c = g r c) ∧
  (∀ s : State, Written s.raw 0 32 → ∃ t u, exec .tdec s = .next t ∧ exec .tenc t = .next u ∧
    ∀ k, u.raw.read k = s.raw.read k) ∧
  (∀ s : State, Written s.pix 0 64 → ∃ t u, exec .tenc s = .next t ∧ exec .tdec t = .next u ∧
    ∀ k, u.pix.read k = s.pix.read k)

/-- 40_tile_codec R103: the pixel at `(r, c)` depends on bit `7-c` of bytes 2r, 2r+1, 16+2r, 17+2r and on nothing else,
and those four bits on that pixel alone. -/
def Obligations.TileLanesAreIndependent : Prop :=
  (∀ (raw raw' : Tile), ∀ r < 8, ∀ c < 8,
    (∀ b ∈ [2 * r, 2 * r + 1, 16 + 2 * r, 17 + 2 * r], (raw b).getLsbD (7 - c) = (raw' b).getLsbD (7 - c)) →
      decodeTile raw r c = decodeTile raw' r c) ∧
  (∀ (g g' : Grid), ∀ r < 8, ∀ c < 8, g r c = g' r c →
    ∀ b ∈ [2 * r, 2 * r + 1, 16 + 2 * r, 17 + 2 * r],
      (encodeTile g b).getLsbD (7 - c) = (encodeTile g' b).getLsbD (7 - c))

/-! ### The compositor -/

/-- 41_compositor R141 (EPRS), with ParseEntry of R130: its words, its faults in order, its result and its frame. -/
def Obligations.EprsParsesEntry : Prop :=
  ∀ (s : State) (e : Nat),
    OperandCommandWords s 0x05 .eprs ∧
    (s.cfg.nEntries ≤ e → exec (.eprs e) s = .next (withFault s .operandRange (BitVec.ofNat 32 e))) ∧
    (e < s.cfg.nEntries → ∀ i, LowestUnwritten s.entry (8 * e) 5 i →
      exec (.eprs e) s = .next (withFault s .uninit (BitVec.ofNat 32 (0x010000 + 8 * e + i)))) ∧
    (e < s.cfg.nEntries → ∀ b0 b1 b2 b3 b4 : Byte,
      s.entry.read (8 * e) = some b0 → s.entry.read (8 * e + 1) = some b1 → s.entry.read (8 * e + 2) = some b2 →
      s.entry.read (8 * e + 3) = some b3 → s.entry.read (8 * e + 4) = some b4 →
      exec (.eprs e) s = .next { s with
        ent := { x := b0.toNat - (if b1.toNat % 2 = 1 then 0x100 else 0)
                 y := (b2.toNat % 0x80 : Nat) - (if 0x80 ≤ b2.toNat then 0x80 else 0)
                 big := decide (b1.toNat / 0x40 = 3 ∧ b1.toNat / 2 % 2 = 1)
                 tile := b3
                 pal := BitVec.ofNat 3 (b4.toNat / 4)
                 hf := decide (b4.toNat / 0x40 % 2 = 1)
                 vf := decide (b4.toNat / 0x80 = 1)
                 prio := decide (b4.toNat / 0x20 % 2 = 1) }
        entV := true })

/-- 41_compositor R131: the ranges of a parsed entry, x and y as two's complement, and which bits of the entry reach which
field. -/
def Obligations.ParsedEntryRangesAndBits : Prop :=
  ∀ (entry : EntryBytes) (b : Byte),
    let p := parseEntry entry
    let p1 := parseEntry (fun i => if i = 1 then b else entry i)
    let p4 := parseEntry (fun i => if i = 4 then b else entry i)
    (-256 ≤ p.x ∧ p.x ≤ 255 ∧ -128 ≤ p.y ∧ p.y ≤ 127) ∧
    (p.x = (BitVec.ofBool ((entry 1).getLsbD 0) ++ entry 0).toInt ∧ p.y = (entry 2).toInt) ∧
    (p.tile = entry 3 ∧ p.pal.toNat = (entry 4).toNat / 4 % 8) ∧
    ({ p1 with x := p.x, big := p.big } = p ∧ (b.getLsbD 0 = (entry 1).getLsbD 0 → p1.x = p.x) ∧
      p1.big = (b.getLsbD 7 && b.getLsbD 6 && b.getLsbD 1)) ∧
    ((∀ n < 8, 2 ≤ n → b.getLsbD n = (entry 4).getLsbD n) → p4 = p)

/-- 41_compositor R142 (CCLR): its word, its result and its frame. -/
def Obligations.CclrEmptiesCanvas : Prop :=
  ∀ s : State,
    PlainCommandWords s 0x06 .cclr ∧
    ∃ m, exec .cclr s = .next { s with canvas := m } ∧ ∀ k, m.read k = none

/-- DRAW of a slot that can be drawn (41_compositor R133 to R136, R143; 70_reset R242): every position of the canvas gets
the paint of the entry's mirrored 8 x 8 or 16 x 16 block where that is not transparent and keeps its cell elsewhere;
nothing but the canvas changes. -/
def Obligations.DrawPaintsMirroredBlock : Prop :=
  ∀ (s : State) (e : Nat), e < s.cfg.nEntries → SlotDrawable s e →
    ∃ m, exec (.draw e) s = .next { s with canvas := m } ∧
      ∀ x y, InCanvas x y → m.read (canvasKey x y) = (slotPaint s e x y).or (s.canvasAt x y)

/-- The words of DRAW, and its faults in their order (41_compositor R143, 60_exceptions R205): operand range, lowest unwritten entry byte,
then quadrant by quadrant a tile that cannot be read, then in direct mode the first non-zero pixel, by row and column,
whose palette entry is unwritten; CANVAS is unspecified after the last two (R204). -/
def Obligations.DrawRaisesFirstFault : Prop :=
  ∀ (s : State) (e : Nat),
    OperandCommandWords s 0x07 .draw ∧
    (s.cfg.nEntries ≤ e → exec (.draw e) s = .next (withFault s .operandRange (BitVec.ofNat 32 e))) ∧
    (e < s.cfg.nEntries → ∀ i, LowestUnwritten s.entry (8 * e) 5 i →
      exec (.draw e) s = .next (withFault s .uninit (BitVec.ofNat 32 (0x010000 + 8 * e + i)))) ∧
    (e < s.cfg.nEntries → Written s.entry (8 * e) 5 → ∀ before t after,
      spriteTiles (parseEntry (s.entryBytes e)) = before ++ t :: after →
      (∀ u ∈ before, TileDrawable s (parseEntry (s.entryBytes e)).pal u) →
      (¬ TileReadable s t →
        ∃ m, exec (.draw e) s = .next (withFault (withLostCanvas s m) .tileMissing (BitVec.ofNat 32 t))) ∧
      (TileReadable s t → ∀ r < 8, ∀ c < 8, ¬ PixelPaintable s (parseEntry (s.entryBytes e)).pal t r c →
        (∀ r' < 8, ∀ c' < 8, (r' < r ∨ r' = r ∧ c' < c) → PixelPaintable s (parseEntry (s.entryBytes e)).pal t r' c') →
        ∃ m, exec (.draw e) s = .next (withFault (withLostCanvas s m) .palMissing
          (BitVec.ofNat 32 (16 * (parseEntry (s.entryBytes e)).pal.toNat +
            (decodeTile (s.tileBytes t) r c).toNat)))))

/-- 41_compositor R137: the priority bit of an entry in memory changes nothing DRAW or COMP does. -/
def Obligations.PriorityAffectsNoCell : Prop :=
  ∀ (s t : State) (k : Nat) (b : Byte) (i : Instr), s.entry.read (8 * k + 4) = some b →
    ((∃ e, i = .draw e) ∨ (∃ n, i = .comp n)) → exec i s = .next t →
      exec i { s with entry := s.entry.write (8 * k + 4) (b ^^^ 0x20) } =
        .next { t with entry := s.entry.write (8 * k + 4) (b ^^^ 0x20) }

/-- In indexed mode no palette entry is read (41_compositor R135, 42_palette R185): DRAW and COMP do the same whatever PAL
holds, and raise no PAL_MISSING. -/
def Obligations.IndexedDrawingReadsNoPalette : Prop :=
  ∀ (s t : State) (p : Memory Color15) (i : Instr), s.mode = .indexed →
    ((∃ e, i = .draw e) ∨ (∃ n, i = .comp n)) → exec i s = .next t →
      exec i { s with pal := p } = .next { t with pal := p } ∧
        (s.status.cause ≠ some .palMissing → t.status.cause ≠ some .palMissing)

/-- 41_compositor R139, R140, R144 (RAST): its word; the box is the smallest that holds the written positions and the
origin; RASTER is the canvas over that box; nothing else but RVALID changes. -/
def Obligations.RastCopiesBoundingBox : Prop :=
  (∀ s : State, PlainCommandWords s 0x08 .rast) ∧
  ∀ s : State, canvasWf s.canvas →
    ∃ (r : Raster) (x0 x1 y0 y1 : Int),
      exec .rast s = .next { s with raster := r, status := { s.status with rvalid := true } } ∧
      (x0 ≤ 0 ∧ 0 ≤ x1 ∧ y0 ≤ 0 ∧ 0 ≤ y1) ∧
      (∀ x y, InCanvas x y → s.canvasAt x y ≠ none → x0 ≤ x ∧ x ≤ x1 ∧ y0 ≤ y ∧ y ≤ y1) ∧
      (x0 = 0 ∨ ∃ y, InCanvas x0 y ∧ s.canvasAt x0 y ≠ none) ∧
      (x1 = 0 ∨ ∃ y, InCanvas x1 y ∧ s.canvasAt x1 y ≠ none) ∧
      (y0 = 0 ∨ ∃ x, InCanvas x y0 ∧ s.canvasAt x y0 ≠ none) ∧
      (y1 = 0 ∨ ∃ x, InCanvas x y1 ∧ s.canvasAt x y1 ≠ none) ∧
      ((r.rw : Int) = x1 - x0 + 1 ∧ (r.rh : Int) = y1 - y0 + 1 ∧ (r.orgX : Int) = -x0 ∧ (r.orgY : Int) = -y0) ∧
      (∀ j < r.rh, ∀ i < r.rw, r.cellAt j i = s.canvasAt (x0 + i) (y0 + j)) ∧
      (1 ≤ r.rw ∧ r.rw ≤ 527 ∧ 1 ≤ r.rh ∧ r.rh ≤ 271 ∧ r.orgX ≤ 256 ∧ r.orgY ≤ 128)

/-- COMP of slots that can all be drawn (41_compositor R136, R145): at every position the highest slot that paints there
wins, over an empty canvas, and RASTER is what RAST makes of that canvas; nothing else but RVALID changes. -/
def Obligations.CompPaintsHighestSlot : Prop :=
  ∀ (s : State) (n : Nat), n ≤ s.cfg.nEntries → (∀ e < n, SlotDrawable s e) →
    ∃ (m : Memory Paint) (r : Raster),
      exec (.comp n) s = .next { s with canvas := m, raster := r, status := { s.status with rvalid := true } } ∧
      exec .rast { s with canvas := m } =
        .next { s with canvas := m, raster := r, status := { s.status with rvalid := true } } ∧
      ∀ x y, InCanvas x y → m.read (canvasKey x y) = composedCell s n x y

/-- COMP's result equals CCLR, DRAW 0 .. DRAW n-1, RAST, command by command (41_compositor R145): either way completes
without a fault exactly when the other does, in the same state. -/
def Obligations.CompEqualsCommandByCommand : Prop :=
  ∀ (s t : State) (n : Nat), n ≤ s.cfg.nEntries → s.status.fault = false → t.status.fault = false →
    (exec (.comp n) s = .next t ↔ performAll (.cclr :: drawCommands n ++ [.rast]) s = .next t)

/-- The words of COMP, and its faults (41_compositor R145, 60_exceptions R204): operand range before anything else; then those
of DRAW for each entry in order (log 8). UNINIT leaves everything as before COMP (log 7); TILE_MISSING and PAL_MISSING leave
CANVAS unspecified and everything else, RASTER and RVALID with it, as before COMP. -/
def Obligations.CompRaisesFirstFaultOfItsEntries : Prop :=
  ∀ (s : State) (n : Nat),
    OperandCommandWords s 0x0B .comp ∧
    (s.cfg.nEntries < n → exec (.comp n) s = .next (withFault s .operandRange (BitVec.ofNat 32 n))) ∧
    (n ≤ s.cfg.nEntries → ∀ e < n, (∀ k < e, SlotDrawable s k) → ∀ t c, s.status.fault = false →
      exec (.draw e) s = .next t → t.status.fault = true → t.status.cause = some c →
      (c = .uninit → exec (.comp n) s = .next (withFault s .uninit t.finfo)) ∧
      (c ≠ .uninit → (c = .tileMissing ∨ c = .palMissing) ∧
        ∃ m, exec (.comp n) s = .next (withFault (withLostCanvas s m) c t.finfo)))

/-! ### The palette converter -/

/-- 42_palette R186 (CV15), with Color15ToRGB of R180: its word, its fault, its result and its frame. -/
def Obligations.Cv15ScalesChannels : Prop :=
  ∀ s : State,
    PlainCommandWords s 0x09 .cv15 ∧
    (s.c15V = false → exec .cv15 s = .next (withFault s .uninit 0x000004)) ∧
    (s.c15V = true → exec .cv15 s = .next { s with
      rgb := { r := BitVec.ofNat 8 (s.c15.toNat % 32 * 8)
               g := BitVec.ofNat 8 (s.c15.toNat / 32 % 32 * 8)
               b := BitVec.ofNat 8 (s.c15.toNat / 1024 * 8) }
      rgbV := true })

/-- 42_palette R187 (CV24), with RGB_TO_15 of R182: its word, its fault, its result and its frame. The supplied form's
value is free (log 2). -/
def Obligations.Cv24ConvertsTriplet : Prop :=
  ∀ s : State,
    PlainCommandWords s 0x0A .cv24 ∧
    (s.rgbV = false → exec .cv24 s = .next (withFault s .uninit 0x000005)) ∧
    (s.rgbV = true → s.cfg.rgbTo15 = .shift → exec .cv24 s = .next { s with
      c15 := BitVec.ofNat 15 (s.rgb.r.toNat / 8 + 32 * (s.rgb.g.toNat / 8) + 1024 * (s.rgb.b.toNat / 8))
      c15V := true }) ∧
    (s.rgbV = true → s.cfg.rgbTo15 = .supplied → exec .cv24 s = .next { s with
      c15 := Config.suppliedRgbTo15 s.rgb.r s.rgb.g s.rgb.b
      c15V := true })

/-- 42_palette R183, R181: the round-trip laws of the default conversion, and that Color15ToRGB is injective onto
multiples of 8; CV24 after CV15 restores C15. -/
def Obligations.ColourConversionsRoundTrip : Prop :=
  (∀ c : Color15, rgbTo15Shift (color15ToRgb c) = c) ∧
  (∀ r g b : Byte, color15ToRgb (rgbTo15Shift { r := r, g := g, b := b }) =
    { r := r &&& 0xF8, g := g &&& 0xF8, b := b &&& 0xF8 }) ∧
  (∀ c d : Color15, color15ToRgb c = color15ToRgb d → c = d) ∧
  (∀ c : Color15, (color15ToRgb c).r.toNat % 8 = 0 ∧ (color15ToRgb c).g.toNat % 8 = 0 ∧
    (color15ToRgb c).b.toNat % 8 = 0) ∧
  (∀ s : State, s.c15V = true → s.cfg.rgbTo15 = .shift →
    ∃ t u, exec .cv15 s = .next t ∧ exec .cv24 t = .next u ∧ u.c15 = s.c15)

/-! ### The invariant -/

/-- Every step keeps every element in the range and the form the spec gives it, whatever the host does (10_state R23 to
R33, R41, R43; 41_compositor R131, R138, R140). -/
def Obligations.StepKeepsStateWellFormed : Prop :=
  ∀ s t : State, s.wf → step s = .next t → t.wf

/-- The state after reset is well formed. -/
def Obligations.ResetIsWellFormed : Prop := State.reset.wf
end

