-- ==== Sys2Proof/Laws/State.lean ====
section
/-! SUPPORT. What each update of State does to each field: one lemma per field per update. -/

namespace Sys2Proof.Machine

@[simp] theorem setTile_cfg (s : State) (m : Memory Byte) : (s.setTile m).cfg = s.cfg := rfl
@[simp] theorem setTile_tile (s : State) (m : Memory Byte) : (s.setTile m).tile = m := rfl
@[simp] theorem setTile_pal (s : State) (m : Memory Byte) : (s.setTile m).pal = s.pal := rfl
@[simp] theorem setTile_entry (s : State) (m : Memory Byte) : (s.setTile m).entry = s.entry := rfl
@[simp] theorem setTile_raw (s : State) (m : Memory Byte) : (s.setTile m).raw = s.raw := rfl
@[simp] theorem setTile_pix (s : State) (m : Memory Byte) : (s.setTile m).pix = s.pix := rfl
@[simp] theorem setTile_c15 (s : State) (m : Memory Byte) : (s.setTile m).c15 = s.c15 := rfl
@[simp] theorem setTile_c15V (s : State) (m : Memory Byte) : (s.setTile m).c15V = s.c15V := rfl
@[simp] theorem setTile_rgb (s : State) (m : Memory Byte) : (s.setTile m).rgb = s.rgb := rfl
@[simp] theorem setTile_rgbV (s : State) (m : Memory Byte) : (s.setTile m).rgbV = s.rgbV := rfl
@[simp] theorem setTile_ent (s : State) (m : Memory Byte) : (s.setTile m).ent = s.ent := rfl
@[simp] theorem setTile_entV (s : State) (m : Memory Byte) : (s.setTile m).entV = s.entV := rfl
@[simp] theorem setTile_canvas (s : State) (m : Memory Byte) : (s.setTile m).canvas = s.canvas := rfl
@[simp] theorem setTile_raster (s : State) (m : Memory Byte) : (s.setTile m).raster = s.raster := rfl
@[simp] theorem setTile_mode (s : State) (m : Memory Byte) : (s.setTile m).mode = s.mode := rfl
@[simp] theorem setTile_status (s : State) (m : Memory Byte) : (s.setTile m).status = s.status := rfl
@[simp] theorem setTile_finfo (s : State) (m : Memory Byte) : (s.setTile m).finfo = s.finfo := rfl
@[simp] theorem setTile_host (s : State) (m : Memory Byte) : (s.setTile m).host = s.host := rfl
@[simp] theorem setTile_draws (s : State) (m : Memory Byte) : (s.setTile m).draws = s.draws := rfl

@[simp] theorem setPal_cfg (s : State) (m : Memory Color15) : (s.setPal m).cfg = s.cfg := rfl
@[simp] theorem setPal_tile (s : State) (m : Memory Color15) : (s.setPal m).tile = s.tile := rfl
@[simp] theorem setPal_pal (s : State) (m : Memory Color15) : (s.setPal m).pal = m := rfl
@[simp] theorem setPal_entry (s : State) (m : Memory Color15) : (s.setPal m).entry = s.entry := rfl
@[simp] theorem setPal_raw (s : State) (m : Memory Color15) : (s.setPal m).raw = s.raw := rfl
@[simp] theorem setPal_pix (s : State) (m : Memory Color15) : (s.setPal m).pix = s.pix := rfl
@[simp] theorem setPal_c15 (s : State) (m : Memory Color15) : (s.setPal m).c15 = s.c15 := rfl
@[simp] theorem setPal_c15V (s : State) (m : Memory Color15) : (s.setPal m).c15V = s.c15V := rfl
@[simp] theorem setPal_rgb (s : State) (m : Memory Color15) : (s.setPal m).rgb = s.rgb := rfl
@[simp] theorem setPal_rgbV (s : State) (m : Memory Color15) : (s.setPal m).rgbV = s.rgbV := rfl
@[simp] theorem setPal_ent (s : State) (m : Memory Color15) : (s.setPal m).ent = s.ent := rfl
@[simp] theorem setPal_entV (s : State) (m : Memory Color15) : (s.setPal m).entV = s.entV := rfl
@[simp] theorem setPal_canvas (s : State) (m : Memory Color15) : (s.setPal m).canvas = s.canvas := rfl
@[simp] theorem setPal_raster (s : State) (m : Memory Color15) : (s.setPal m).raster = s.raster := rfl
@[simp] theorem setPal_mode (s : State) (m : Memory Color15) : (s.setPal m).mode = s.mode := rfl
@[simp] theorem setPal_status (s : State) (m : Memory Color15) : (s.setPal m).status = s.status := rfl
@[simp] theorem setPal_finfo (s : State) (m : Memory Color15) : (s.setPal m).finfo = s.finfo := rfl
@[simp] theorem setPal_host (s : State) (m : Memory Color15) : (s.setPal m).host = s.host := rfl
@[simp] theorem setPal_draws (s : State) (m : Memory Color15) : (s.setPal m).draws = s.draws := rfl

@[simp] theorem setEntry_cfg (s : State) (m : Memory Byte) : (s.setEntry m).cfg = s.cfg := rfl
@[simp] theorem setEntry_tile (s : State) (m : Memory Byte) : (s.setEntry m).tile = s.tile := rfl
@[simp] theorem setEntry_pal (s : State) (m : Memory Byte) : (s.setEntry m).pal = s.pal := rfl
@[simp] theorem setEntry_entry (s : State) (m : Memory Byte) : (s.setEntry m).entry = m := rfl
@[simp] theorem setEntry_raw (s : State) (m : Memory Byte) : (s.setEntry m).raw = s.raw := rfl
@[simp] theorem setEntry_pix (s : State) (m : Memory Byte) : (s.setEntry m).pix = s.pix := rfl
@[simp] theorem setEntry_c15 (s : State) (m : Memory Byte) : (s.setEntry m).c15 = s.c15 := rfl
@[simp] theorem setEntry_c15V (s : State) (m : Memory Byte) : (s.setEntry m).c15V = s.c15V := rfl
@[simp] theorem setEntry_rgb (s : State) (m : Memory Byte) : (s.setEntry m).rgb = s.rgb := rfl
@[simp] theorem setEntry_rgbV (s : State) (m : Memory Byte) : (s.setEntry m).rgbV = s.rgbV := rfl
@[simp] theorem setEntry_ent (s : State) (m : Memory Byte) : (s.setEntry m).ent = s.ent := rfl
@[simp] theorem setEntry_entV (s : State) (m : Memory Byte) : (s.setEntry m).entV = s.entV := rfl
@[simp] theorem setEntry_canvas (s : State) (m : Memory Byte) : (s.setEntry m).canvas = s.canvas := rfl
@[simp] theorem setEntry_raster (s : State) (m : Memory Byte) : (s.setEntry m).raster = s.raster := rfl
@[simp] theorem setEntry_mode (s : State) (m : Memory Byte) : (s.setEntry m).mode = s.mode := rfl
@[simp] theorem setEntry_status (s : State) (m : Memory Byte) : (s.setEntry m).status = s.status := rfl
@[simp] theorem setEntry_finfo (s : State) (m : Memory Byte) : (s.setEntry m).finfo = s.finfo := rfl
@[simp] theorem setEntry_host (s : State) (m : Memory Byte) : (s.setEntry m).host = s.host := rfl
@[simp] theorem setEntry_draws (s : State) (m : Memory Byte) : (s.setEntry m).draws = s.draws := rfl

@[simp] theorem setRaw_cfg (s : State) (m : Memory Byte) : (s.setRaw m).cfg = s.cfg := rfl
@[simp] theorem setRaw_tile (s : State) (m : Memory Byte) : (s.setRaw m).tile = s.tile := rfl
@[simp] theorem setRaw_pal (s : State) (m : Memory Byte) : (s.setRaw m).pal = s.pal := rfl
@[simp] theorem setRaw_entry (s : State) (m : Memory Byte) : (s.setRaw m).entry = s.entry := rfl
@[simp] theorem setRaw_raw (s : State) (m : Memory Byte) : (s.setRaw m).raw = m := rfl
@[simp] theorem setRaw_pix (s : State) (m : Memory Byte) : (s.setRaw m).pix = s.pix := rfl
@[simp] theorem setRaw_c15 (s : State) (m : Memory Byte) : (s.setRaw m).c15 = s.c15 := rfl
@[simp] theorem setRaw_c15V (s : State) (m : Memory Byte) : (s.setRaw m).c15V = s.c15V := rfl
@[simp] theorem setRaw_rgb (s : State) (m : Memory Byte) : (s.setRaw m).rgb = s.rgb := rfl
@[simp] theorem setRaw_rgbV (s : State) (m : Memory Byte) : (s.setRaw m).rgbV = s.rgbV := rfl
@[simp] theorem setRaw_ent (s : State) (m : Memory Byte) : (s.setRaw m).ent = s.ent := rfl
@[simp] theorem setRaw_entV (s : State) (m : Memory Byte) : (s.setRaw m).entV = s.entV := rfl
@[simp] theorem setRaw_canvas (s : State) (m : Memory Byte) : (s.setRaw m).canvas = s.canvas := rfl
@[simp] theorem setRaw_raster (s : State) (m : Memory Byte) : (s.setRaw m).raster = s.raster := rfl
@[simp] theorem setRaw_mode (s : State) (m : Memory Byte) : (s.setRaw m).mode = s.mode := rfl
@[simp] theorem setRaw_status (s : State) (m : Memory Byte) : (s.setRaw m).status = s.status := rfl
@[simp] theorem setRaw_finfo (s : State) (m : Memory Byte) : (s.setRaw m).finfo = s.finfo := rfl
@[simp] theorem setRaw_host (s : State) (m : Memory Byte) : (s.setRaw m).host = s.host := rfl
@[simp] theorem setRaw_draws (s : State) (m : Memory Byte) : (s.setRaw m).draws = s.draws := rfl

@[simp] theorem setPix_cfg (s : State) (m : Memory Pixel) : (s.setPix m).cfg = s.cfg := rfl
@[simp] theorem setPix_tile (s : State) (m : Memory Pixel) : (s.setPix m).tile = s.tile := rfl
@[simp] theorem setPix_pal (s : State) (m : Memory Pixel) : (s.setPix m).pal = s.pal := rfl
@[simp] theorem setPix_entry (s : State) (m : Memory Pixel) : (s.setPix m).entry = s.entry := rfl
@[simp] theorem setPix_raw (s : State) (m : Memory Pixel) : (s.setPix m).raw = s.raw := rfl
@[simp] theorem setPix_pix (s : State) (m : Memory Pixel) : (s.setPix m).pix = m := rfl
@[simp] theorem setPix_c15 (s : State) (m : Memory Pixel) : (s.setPix m).c15 = s.c15 := rfl
@[simp] theorem setPix_c15V (s : State) (m : Memory Pixel) : (s.setPix m).c15V = s.c15V := rfl
@[simp] theorem setPix_rgb (s : State) (m : Memory Pixel) : (s.setPix m).rgb = s.rgb := rfl
@[simp] theorem setPix_rgbV (s : State) (m : Memory Pixel) : (s.setPix m).rgbV = s.rgbV := rfl
@[simp] theorem setPix_ent (s : State) (m : Memory Pixel) : (s.setPix m).ent = s.ent := rfl
@[simp] theorem setPix_entV (s : State) (m : Memory Pixel) : (s.setPix m).entV = s.entV := rfl
@[simp] theorem setPix_canvas (s : State) (m : Memory Pixel) : (s.setPix m).canvas = s.canvas := rfl
@[simp] theorem setPix_raster (s : State) (m : Memory Pixel) : (s.setPix m).raster = s.raster := rfl
@[simp] theorem setPix_mode (s : State) (m : Memory Pixel) : (s.setPix m).mode = s.mode := rfl
@[simp] theorem setPix_status (s : State) (m : Memory Pixel) : (s.setPix m).status = s.status := rfl
@[simp] theorem setPix_finfo (s : State) (m : Memory Pixel) : (s.setPix m).finfo = s.finfo := rfl
@[simp] theorem setPix_host (s : State) (m : Memory Pixel) : (s.setPix m).host = s.host := rfl
@[simp] theorem setPix_draws (s : State) (m : Memory Pixel) : (s.setPix m).draws = s.draws := rfl

@[simp] theorem setC15_cfg (s : State) (c : Color15) : (s.setC15 c).cfg = s.cfg := rfl
@[simp] theorem setC15_tile (s : State) (c : Color15) : (s.setC15 c).tile = s.tile := rfl
@[simp] theorem setC15_pal (s : State) (c : Color15) : (s.setC15 c).pal = s.pal := rfl
@[simp] theorem setC15_entry (s : State) (c : Color15) : (s.setC15 c).entry = s.entry := rfl
@[simp] theorem setC15_raw (s : State) (c : Color15) : (s.setC15 c).raw = s.raw := rfl
@[simp] theorem setC15_pix (s : State) (c : Color15) : (s.setC15 c).pix = s.pix := rfl
@[simp] theorem setC15_c15 (s : State) (c : Color15) : (s.setC15 c).c15 = c := rfl
@[simp] theorem setC15_c15V (s : State) (c : Color15) : (s.setC15 c).c15V = true := rfl
@[simp] theorem setC15_rgb (s : State) (c : Color15) : (s.setC15 c).rgb = s.rgb := rfl
@[simp] theorem setC15_rgbV (s : State) (c : Color15) : (s.setC15 c).rgbV = s.rgbV := rfl
@[simp] theorem setC15_ent (s : State) (c : Color15) : (s.setC15 c).ent = s.ent := rfl
@[simp] theorem setC15_entV (s : State) (c : Color15) : (s.setC15 c).entV = s.entV := rfl
@[simp] theorem setC15_canvas (s : State) (c : Color15) : (s.setC15 c).canvas = s.canvas := rfl
@[simp] theorem setC15_raster (s : State) (c : Color15) : (s.setC15 c).raster = s.raster := rfl
@[simp] theorem setC15_mode (s : State) (c : Color15) : (s.setC15 c).mode = s.mode := rfl
@[simp] theorem setC15_status (s : State) (c : Color15) : (s.setC15 c).status = s.status := rfl
@[simp] theorem setC15_finfo (s : State) (c : Color15) : (s.setC15 c).finfo = s.finfo := rfl
@[simp] theorem setC15_host (s : State) (c : Color15) : (s.setC15 c).host = s.host := rfl
@[simp] theorem setC15_draws (s : State) (c : Color15) : (s.setC15 c).draws = s.draws := rfl

@[simp] theorem setRgb_cfg (s : State) (c : Rgb) : (s.setRgb c).cfg = s.cfg := rfl
@[simp] theorem setRgb_tile (s : State) (c : Rgb) : (s.setRgb c).tile = s.tile := rfl
@[simp] theorem setRgb_pal (s : State) (c : Rgb) : (s.setRgb c).pal = s.pal := rfl
@[simp] theorem setRgb_entry (s : State) (c : Rgb) : (s.setRgb c).entry = s.entry := rfl
@[simp] theorem setRgb_raw (s : State) (c : Rgb) : (s.setRgb c).raw = s.raw := rfl
@[simp] theorem setRgb_pix (s : State) (c : Rgb) : (s.setRgb c).pix = s.pix := rfl
@[simp] theorem setRgb_c15 (s : State) (c : Rgb) : (s.setRgb c).c15 = s.c15 := rfl
@[simp] theorem setRgb_c15V (s : State) (c : Rgb) : (s.setRgb c).c15V = s.c15V := rfl
@[simp] theorem setRgb_rgb (s : State) (c : Rgb) : (s.setRgb c).rgb = c := rfl
@[simp] theorem setRgb_rgbV (s : State) (c : Rgb) : (s.setRgb c).rgbV = true := rfl
@[simp] theorem setRgb_ent (s : State) (c : Rgb) : (s.setRgb c).ent = s.ent := rfl
@[simp] theorem setRgb_entV (s : State) (c : Rgb) : (s.setRgb c).entV = s.entV := rfl
@[simp] theorem setRgb_canvas (s : State) (c : Rgb) : (s.setRgb c).canvas = s.canvas := rfl
@[simp] theorem setRgb_raster (s : State) (c : Rgb) : (s.setRgb c).raster = s.raster := rfl
@[simp] theorem setRgb_mode (s : State) (c : Rgb) : (s.setRgb c).mode = s.mode := rfl
@[simp] theorem setRgb_status (s : State) (c : Rgb) : (s.setRgb c).status = s.status := rfl
@[simp] theorem setRgb_finfo (s : State) (c : Rgb) : (s.setRgb c).finfo = s.finfo := rfl
@[simp] theorem setRgb_host (s : State) (c : Rgb) : (s.setRgb c).host = s.host := rfl
@[simp] theorem setRgb_draws (s : State) (c : Rgb) : (s.setRgb c).draws = s.draws := rfl

@[simp] theorem setEnt_cfg (s : State) (e : ParsedEntry) : (s.setEnt e).cfg = s.cfg := rfl
@[simp] theorem setEnt_tile (s : State) (e : ParsedEntry) : (s.setEnt e).tile = s.tile := rfl
@[simp] theorem setEnt_pal (s : State) (e : ParsedEntry) : (s.setEnt e).pal = s.pal := rfl
@[simp] theorem setEnt_entry (s : State) (e : ParsedEntry) : (s.setEnt e).entry = s.entry := rfl
@[simp] theorem setEnt_raw (s : State) (e : ParsedEntry) : (s.setEnt e).raw = s.raw := rfl
@[simp] theorem setEnt_pix (s : State) (e : ParsedEntry) : (s.setEnt e).pix = s.pix := rfl
@[simp] theorem setEnt_c15 (s : State) (e : ParsedEntry) : (s.setEnt e).c15 = s.c15 := rfl
@[simp] theorem setEnt_c15V (s : State) (e : ParsedEntry) : (s.setEnt e).c15V = s.c15V := rfl
@[simp] theorem setEnt_rgb (s : State) (e : ParsedEntry) : (s.setEnt e).rgb = s.rgb := rfl
@[simp] theorem setEnt_rgbV (s : State) (e : ParsedEntry) : (s.setEnt e).rgbV = s.rgbV := rfl
@[simp] theorem setEnt_ent (s : State) (e : ParsedEntry) : (s.setEnt e).ent = e := rfl
@[simp] theorem setEnt_entV (s : State) (e : ParsedEntry) : (s.setEnt e).entV = true := rfl
@[simp] theorem setEnt_canvas (s : State) (e : ParsedEntry) : (s.setEnt e).canvas = s.canvas := rfl
@[simp] theorem setEnt_raster (s : State) (e : ParsedEntry) : (s.setEnt e).raster = s.raster := rfl
@[simp] theorem setEnt_mode (s : State) (e : ParsedEntry) : (s.setEnt e).mode = s.mode := rfl
@[simp] theorem setEnt_status (s : State) (e : ParsedEntry) : (s.setEnt e).status = s.status := rfl
@[simp] theorem setEnt_finfo (s : State) (e : ParsedEntry) : (s.setEnt e).finfo = s.finfo := rfl
@[simp] theorem setEnt_host (s : State) (e : ParsedEntry) : (s.setEnt e).host = s.host := rfl
@[simp] theorem setEnt_draws (s : State) (e : ParsedEntry) : (s.setEnt e).draws = s.draws := rfl

@[simp] theorem setCanvas_cfg (s : State) (m : Memory Paint) : (s.setCanvas m).cfg = s.cfg := rfl
@[simp] theorem setCanvas_tile (s : State) (m : Memory Paint) : (s.setCanvas m).tile = s.tile := rfl
@[simp] theorem setCanvas_pal (s : State) (m : Memory Paint) : (s.setCanvas m).pal = s.pal := rfl
@[simp] theorem setCanvas_entry (s : State) (m : Memory Paint) : (s.setCanvas m).entry = s.entry := rfl
@[simp] theorem setCanvas_raw (s : State) (m : Memory Paint) : (s.setCanvas m).raw = s.raw := rfl
@[simp] theorem setCanvas_pix (s : State) (m : Memory Paint) : (s.setCanvas m).pix = s.pix := rfl
@[simp] theorem setCanvas_c15 (s : State) (m : Memory Paint) : (s.setCanvas m).c15 = s.c15 := rfl
@[simp] theorem setCanvas_c15V (s : State) (m : Memory Paint) : (s.setCanvas m).c15V = s.c15V := rfl
@[simp] theorem setCanvas_rgb (s : State) (m : Memory Paint) : (s.setCanvas m).rgb = s.rgb := rfl
@[simp] theorem setCanvas_rgbV (s : State) (m : Memory Paint) : (s.setCanvas m).rgbV = s.rgbV := rfl
@[simp] theorem setCanvas_ent (s : State) (m : Memory Paint) : (s.setCanvas m).ent = s.ent := rfl
@[simp] theorem setCanvas_entV (s : State) (m : Memory Paint) : (s.setCanvas m).entV = s.entV := rfl
@[simp] theorem setCanvas_canvas (s : State) (m : Memory Paint) : (s.setCanvas m).canvas = m := rfl
@[simp] theorem setCanvas_raster (s : State) (m : Memory Paint) : (s.setCanvas m).raster = s.raster := rfl
@[simp] theorem setCanvas_mode (s : State) (m : Memory Paint) : (s.setCanvas m).mode = s.mode := rfl
@[simp] theorem setCanvas_status (s : State) (m : Memory Paint) : (s.setCanvas m).status = s.status := rfl
@[simp] theorem setCanvas_finfo (s : State) (m : Memory Paint) : (s.setCanvas m).finfo = s.finfo := rfl
@[simp] theorem setCanvas_host (s : State) (m : Memory Paint) : (s.setCanvas m).host = s.host := rfl
@[simp] theorem setCanvas_draws (s : State) (m : Memory Paint) : (s.setCanvas m).draws = s.draws := rfl

@[simp] theorem setRaster_cfg (s : State) (r : Raster) : (s.setRaster r).cfg = s.cfg := rfl
@[simp] theorem setRaster_tile (s : State) (r : Raster) : (s.setRaster r).tile = s.tile := rfl
@[simp] theorem setRaster_pal (s : State) (r : Raster) : (s.setRaster r).pal = s.pal := rfl
@[simp] theorem setRaster_entry (s : State) (r : Raster) : (s.setRaster r).entry = s.entry := rfl
@[simp] theorem setRaster_raw (s : State) (r : Raster) : (s.setRaster r).raw = s.raw := rfl
@[simp] theorem setRaster_pix (s : State) (r : Raster) : (s.setRaster r).pix = s.pix := rfl
@[simp] theorem setRaster_c15 (s : State) (r : Raster) : (s.setRaster r).c15 = s.c15 := rfl
@[simp] theorem setRaster_c15V (s : State) (r : Raster) : (s.setRaster r).c15V = s.c15V := rfl
@[simp] theorem setRaster_rgb (s : State) (r : Raster) : (s.setRaster r).rgb = s.rgb := rfl
@[simp] theorem setRaster_rgbV (s : State) (r : Raster) : (s.setRaster r).rgbV = s.rgbV := rfl
@[simp] theorem setRaster_ent (s : State) (r : Raster) : (s.setRaster r).ent = s.ent := rfl
@[simp] theorem setRaster_entV (s : State) (r : Raster) : (s.setRaster r).entV = s.entV := rfl
@[simp] theorem setRaster_canvas (s : State) (r : Raster) : (s.setRaster r).canvas = s.canvas := rfl
@[simp] theorem setRaster_raster (s : State) (r : Raster) : (s.setRaster r).raster = r := rfl
@[simp] theorem setRaster_mode (s : State) (r : Raster) : (s.setRaster r).mode = s.mode := rfl
@[simp] theorem setRaster_status (s : State) (r : Raster) : (s.setRaster r).status = { s.status with rvalid := true } := rfl
@[simp] theorem setRaster_finfo (s : State) (r : Raster) : (s.setRaster r).finfo = s.finfo := rfl
@[simp] theorem setRaster_host (s : State) (r : Raster) : (s.setRaster r).host = s.host := rfl
@[simp] theorem setRaster_draws (s : State) (r : Raster) : (s.setRaster r).draws = s.draws := rfl

@[simp] theorem setMode_cfg (s : State) (m : Mode) : (s.setMode m).cfg = s.cfg := rfl
@[simp] theorem setMode_tile (s : State) (m : Mode) : (s.setMode m).tile = s.tile := rfl
@[simp] theorem setMode_pal (s : State) (m : Mode) : (s.setMode m).pal = s.pal := rfl
@[simp] theorem setMode_entry (s : State) (m : Mode) : (s.setMode m).entry = s.entry := rfl
@[simp] theorem setMode_raw (s : State) (m : Mode) : (s.setMode m).raw = s.raw := rfl
@[simp] theorem setMode_pix (s : State) (m : Mode) : (s.setMode m).pix = s.pix := rfl
@[simp] theorem setMode_c15 (s : State) (m : Mode) : (s.setMode m).c15 = s.c15 := rfl
@[simp] theorem setMode_c15V (s : State) (m : Mode) : (s.setMode m).c15V = s.c15V := rfl
@[simp] theorem setMode_rgb (s : State) (m : Mode) : (s.setMode m).rgb = s.rgb := rfl
@[simp] theorem setMode_rgbV (s : State) (m : Mode) : (s.setMode m).rgbV = s.rgbV := rfl
@[simp] theorem setMode_ent (s : State) (m : Mode) : (s.setMode m).ent = s.ent := rfl
@[simp] theorem setMode_entV (s : State) (m : Mode) : (s.setMode m).entV = s.entV := rfl
@[simp] theorem setMode_canvas (s : State) (m : Mode) : (s.setMode m).canvas = s.canvas := rfl
@[simp] theorem setMode_raster (s : State) (m : Mode) : (s.setMode m).raster = s.raster := rfl
@[simp] theorem setMode_mode (s : State) (m : Mode) : (s.setMode m).mode = m := rfl
@[simp] theorem setMode_status (s : State) (m : Mode) : (s.setMode m).status = s.status := rfl
@[simp] theorem setMode_finfo (s : State) (m : Mode) : (s.setMode m).finfo = s.finfo := rfl
@[simp] theorem setMode_host (s : State) (m : Mode) : (s.setMode m).host = s.host := rfl
@[simp] theorem setMode_draws (s : State) (m : Mode) : (s.setMode m).draws = s.draws := rfl

@[simp] theorem setPending_cfg (s : State) (l : List HostOp) : (s.setPending l).cfg = s.cfg := rfl
@[simp] theorem setPending_tile (s : State) (l : List HostOp) : (s.setPending l).tile = s.tile := rfl
@[simp] theorem setPending_pal (s : State) (l : List HostOp) : (s.setPending l).pal = s.pal := rfl
@[simp] theorem setPending_entry (s : State) (l : List HostOp) : (s.setPending l).entry = s.entry := rfl
@[simp] theorem setPending_raw (s : State) (l : List HostOp) : (s.setPending l).raw = s.raw := rfl
@[simp] theorem setPending_pix (s : State) (l : List HostOp) : (s.setPending l).pix = s.pix := rfl
@[simp] theorem setPending_c15 (s : State) (l : List HostOp) : (s.setPending l).c15 = s.c15 := rfl
@[simp] theorem setPending_c15V (s : State) (l : List HostOp) : (s.setPending l).c15V = s.c15V := rfl
@[simp] theorem setPending_rgb (s : State) (l : List HostOp) : (s.setPending l).rgb = s.rgb := rfl
@[simp] theorem setPending_rgbV (s : State) (l : List HostOp) : (s.setPending l).rgbV = s.rgbV := rfl
@[simp] theorem setPending_ent (s : State) (l : List HostOp) : (s.setPending l).ent = s.ent := rfl
@[simp] theorem setPending_entV (s : State) (l : List HostOp) : (s.setPending l).entV = s.entV := rfl
@[simp] theorem setPending_canvas (s : State) (l : List HostOp) : (s.setPending l).canvas = s.canvas := rfl
@[simp] theorem setPending_raster (s : State) (l : List HostOp) : (s.setPending l).raster = s.raster := rfl
@[simp] theorem setPending_mode (s : State) (l : List HostOp) : (s.setPending l).mode = s.mode := rfl
@[simp] theorem setPending_status (s : State) (l : List HostOp) : (s.setPending l).status = s.status := rfl
@[simp] theorem setPending_finfo (s : State) (l : List HostOp) : (s.setPending l).finfo = s.finfo := rfl
@[simp] theorem setPending_host (s : State) (l : List HostOp) : (s.setPending l).host = { s.host with pending := l } := rfl
@[simp] theorem setPending_draws (s : State) (l : List HostOp) : (s.setPending l).draws = s.draws := rfl

@[simp] theorem setResult_cfg (s : State) (w : Word) : (s.setResult w).cfg = s.cfg := rfl
@[simp] theorem setResult_tile (s : State) (w : Word) : (s.setResult w).tile = s.tile := rfl
@[simp] theorem setResult_pal (s : State) (w : Word) : (s.setResult w).pal = s.pal := rfl
@[simp] theorem setResult_entry (s : State) (w : Word) : (s.setResult w).entry = s.entry := rfl
@[simp] theorem setResult_raw (s : State) (w : Word) : (s.setResult w).raw = s.raw := rfl
@[simp] theorem setResult_pix (s : State) (w : Word) : (s.setResult w).pix = s.pix := rfl
@[simp] theorem setResult_c15 (s : State) (w : Word) : (s.setResult w).c15 = s.c15 := rfl
@[simp] theorem setResult_c15V (s : State) (w : Word) : (s.setResult w).c15V = s.c15V := rfl
@[simp] theorem setResult_rgb (s : State) (w : Word) : (s.setResult w).rgb = s.rgb := rfl
@[simp] theorem setResult_rgbV (s : State) (w : Word) : (s.setResult w).rgbV = s.rgbV := rfl
@[simp] theorem setResult_ent (s : State) (w : Word) : (s.setResult w).ent = s.ent := rfl
@[simp] theorem setResult_entV (s : State) (w : Word) : (s.setResult w).entV = s.entV := rfl
@[simp] theorem setResult_canvas (s : State) (w : Word) : (s.setResult w).canvas = s.canvas := rfl
@[simp] theorem setResult_raster (s : State) (w : Word) : (s.setResult w).raster = s.raster := rfl
@[simp] theorem setResult_mode (s : State) (w : Word) : (s.setResult w).mode = s.mode := rfl
@[simp] theorem setResult_status (s : State) (w : Word) : (s.setResult w).status = s.status := rfl
@[simp] theorem setResult_finfo (s : State) (w : Word) : (s.setResult w).finfo = s.finfo := rfl
@[simp] theorem setResult_host (s : State) (w : Word) : (s.setResult w).host = { s.host with result := some w } := rfl
@[simp] theorem setResult_draws (s : State) (w : Word) : (s.setResult w).draws = s.draws := rfl

@[simp] theorem countDraw_cfg (s : State) : s.countDraw.cfg = s.cfg := rfl
@[simp] theorem countDraw_tile (s : State) : s.countDraw.tile = s.tile := rfl
@[simp] theorem countDraw_pal (s : State) : s.countDraw.pal = s.pal := rfl
@[simp] theorem countDraw_entry (s : State) : s.countDraw.entry = s.entry := rfl
@[simp] theorem countDraw_raw (s : State) : s.countDraw.raw = s.raw := rfl
@[simp] theorem countDraw_pix (s : State) : s.countDraw.pix = s.pix := rfl
@[simp] theorem countDraw_c15 (s : State) : s.countDraw.c15 = s.c15 := rfl
@[simp] theorem countDraw_c15V (s : State) : s.countDraw.c15V = s.c15V := rfl
@[simp] theorem countDraw_rgb (s : State) : s.countDraw.rgb = s.rgb := rfl
@[simp] theorem countDraw_rgbV (s : State) : s.countDraw.rgbV = s.rgbV := rfl
@[simp] theorem countDraw_ent (s : State) : s.countDraw.ent = s.ent := rfl
@[simp] theorem countDraw_entV (s : State) : s.countDraw.entV = s.entV := rfl
@[simp] theorem countDraw_canvas (s : State) : s.countDraw.canvas = s.canvas := rfl
@[simp] theorem countDraw_raster (s : State) : s.countDraw.raster = s.raster := rfl
@[simp] theorem countDraw_mode (s : State) : s.countDraw.mode = s.mode := rfl
@[simp] theorem countDraw_status (s : State) : s.countDraw.status = s.status := rfl
@[simp] theorem countDraw_finfo (s : State) : s.countDraw.finfo = s.finfo := rfl
@[simp] theorem countDraw_host (s : State) : s.countDraw.host = s.host := rfl
@[simp] theorem countDraw_draws (s : State) : s.countDraw.draws = s.draws + 1 := rfl

@[simp] theorem raise_cfg (s : State) (f : FaultRecord) : (s.raise f).cfg = s.cfg := rfl
@[simp] theorem raise_tile (s : State) (f : FaultRecord) : (s.raise f).tile = s.tile := rfl
@[simp] theorem raise_pal (s : State) (f : FaultRecord) : (s.raise f).pal = s.pal := rfl
@[simp] theorem raise_entry (s : State) (f : FaultRecord) : (s.raise f).entry = s.entry := rfl
@[simp] theorem raise_raw (s : State) (f : FaultRecord) : (s.raise f).raw = s.raw := rfl
@[simp] theorem raise_pix (s : State) (f : FaultRecord) : (s.raise f).pix = s.pix := rfl
@[simp] theorem raise_c15 (s : State) (f : FaultRecord) : (s.raise f).c15 = s.c15 := rfl
@[simp] theorem raise_c15V (s : State) (f : FaultRecord) : (s.raise f).c15V = s.c15V := rfl
@[simp] theorem raise_rgb (s : State) (f : FaultRecord) : (s.raise f).rgb = s.rgb := rfl
@[simp] theorem raise_rgbV (s : State) (f : FaultRecord) : (s.raise f).rgbV = s.rgbV := rfl
@[simp] theorem raise_ent (s : State) (f : FaultRecord) : (s.raise f).ent = s.ent := rfl
@[simp] theorem raise_entV (s : State) (f : FaultRecord) : (s.raise f).entV = s.entV := rfl
@[simp] theorem raise_canvas (s : State) (f : FaultRecord) : (s.raise f).canvas = s.canvas := rfl
@[simp] theorem raise_raster (s : State) (f : FaultRecord) : (s.raise f).raster = s.raster := rfl
@[simp] theorem raise_mode (s : State) (f : FaultRecord) : (s.raise f).mode = s.mode := rfl
@[simp] theorem raise_status (s : State) (f : FaultRecord) : (s.raise f).status = { fault := true, rvalid := s.status.rvalid, cause := some f.cause } := rfl
@[simp] theorem raise_finfo (s : State) (f : FaultRecord) : (s.raise f).finfo = f.info := rfl
@[simp] theorem raise_host (s : State) (f : FaultRecord) : (s.raise f).host = s.host := rfl
@[simp] theorem raise_draws (s : State) (f : FaultRecord) : (s.raise f).draws = s.draws := rfl

@[simp] theorem loseCanvas_cfg (s : State) : s.loseCanvas.cfg = s.cfg := rfl
@[simp] theorem loseCanvas_tile (s : State) : s.loseCanvas.tile = s.tile := rfl
@[simp] theorem loseCanvas_pal (s : State) : s.loseCanvas.pal = s.pal := rfl
@[simp] theorem loseCanvas_entry (s : State) : s.loseCanvas.entry = s.entry := rfl
@[simp] theorem loseCanvas_raw (s : State) : s.loseCanvas.raw = s.raw := rfl
@[simp] theorem loseCanvas_pix (s : State) : s.loseCanvas.pix = s.pix := rfl
@[simp] theorem loseCanvas_c15 (s : State) : s.loseCanvas.c15 = s.c15 := rfl
@[simp] theorem loseCanvas_c15V (s : State) : s.loseCanvas.c15V = s.c15V := rfl
@[simp] theorem loseCanvas_rgb (s : State) : s.loseCanvas.rgb = s.rgb := rfl
@[simp] theorem loseCanvas_rgbV (s : State) : s.loseCanvas.rgbV = s.rgbV := rfl
@[simp] theorem loseCanvas_ent (s : State) : s.loseCanvas.ent = s.ent := rfl
@[simp] theorem loseCanvas_entV (s : State) : s.loseCanvas.entV = s.entV := rfl
@[simp] theorem loseCanvas_canvas (s : State) : s.loseCanvas.canvas = canvasOfPositions (Config.freeCanvas s.draws) := rfl
@[simp] theorem loseCanvas_raster (s : State) : s.loseCanvas.raster = s.raster := rfl
@[simp] theorem loseCanvas_mode (s : State) : s.loseCanvas.mode = s.mode := rfl
@[simp] theorem loseCanvas_status (s : State) : s.loseCanvas.status = s.status := rfl
@[simp] theorem loseCanvas_finfo (s : State) : s.loseCanvas.finfo = s.finfo := rfl
@[simp] theorem loseCanvas_host (s : State) : s.loseCanvas.host = s.host := rfl
@[simp] theorem loseCanvas_draws (s : State) : s.loseCanvas.draws = s.draws + 1 := rfl

/-- Raising a fault of DRAW or COMP touches CANVAS at most besides STATUS and FINFO (60_exceptions R204), and the model's counter. -/
@[simp] theorem raiseDrawing_status (s : State) (f : FaultRecord) :
    (s.raiseDrawing f).status = { fault := true, rvalid := s.status.rvalid, cause := some f.cause } := by
  simp only [State.raiseDrawing]; split <;> rfl
@[simp] theorem raiseDrawing_finfo (s : State) (f : FaultRecord) : (s.raiseDrawing f).finfo = f.info := by
  simp only [State.raiseDrawing]; split <;> rfl
@[simp] theorem raiseDrawing_cfg (s : State) (f : FaultRecord) : (s.raiseDrawing f).cfg = s.cfg := by
  simp only [State.raiseDrawing]; split <;> rfl
@[simp] theorem raiseDrawing_tile (s : State) (f : FaultRecord) : (s.raiseDrawing f).tile = s.tile := by
  simp only [State.raiseDrawing]; split <;> rfl
@[simp] theorem raiseDrawing_pal (s : State) (f : FaultRecord) : (s.raiseDrawing f).pal = s.pal := by
  simp only [State.raiseDrawing]; split <;> rfl
@[simp] theorem raiseDrawing_entry (s : State) (f : FaultRecord) : (s.raiseDrawing f).entry = s.entry := by
  simp only [State.raiseDrawing]; split <;> rfl
@[simp] theorem raiseDrawing_raw (s : State) (f : FaultRecord) : (s.raiseDrawing f).raw = s.raw := by
  simp only [State.raiseDrawing]; split <;> rfl
@[simp] theorem raiseDrawing_pix (s : State) (f : FaultRecord) : (s.raiseDrawing f).pix = s.pix := by
  simp only [State.raiseDrawing]; split <;> rfl
@[simp] theorem raiseDrawing_c15 (s : State) (f : FaultRecord) : (s.raiseDrawing f).c15 = s.c15 := by
  simp only [State.raiseDrawing]; split <;> rfl
@[simp] theorem raiseDrawing_c15V (s : State) (f : FaultRecord) : (s.raiseDrawing f).c15V = s.c15V := by
  simp only [State.raiseDrawing]; split <;> rfl
@[simp] theorem raiseDrawing_rgb (s : State) (f : FaultRecord) : (s.raiseDrawing f).rgb = s.rgb := by
  simp only [State.raiseDrawing]; split <;> rfl
@[simp] theorem raiseDrawing_rgbV (s : State) (f : FaultRecord) : (s.raiseDrawing f).rgbV = s.rgbV := by
  simp only [State.raiseDrawing]; split <;> rfl
@[simp] theorem raiseDrawing_ent (s : State) (f : FaultRecord) : (s.raiseDrawing f).ent = s.ent := by
  simp only [State.raiseDrawing]; split <;> rfl
@[simp] theorem raiseDrawing_entV (s : State) (f : FaultRecord) : (s.raiseDrawing f).entV = s.entV := by
  simp only [State.raiseDrawing]; split <;> rfl
@[simp] theorem raiseDrawing_raster (s : State) (f : FaultRecord) : (s.raiseDrawing f).raster = s.raster := by
  simp only [State.raiseDrawing]; split <;> rfl
@[simp] theorem raiseDrawing_mode (s : State) (f : FaultRecord) : (s.raiseDrawing f).mode = s.mode := by
  simp only [State.raiseDrawing]; split <;> rfl
@[simp] theorem raiseDrawing_host (s : State) (f : FaultRecord) : (s.raiseDrawing f).host = s.host := by
  simp only [State.raiseDrawing]; split <;> rfl

@[simp] theorem hostReset_cfg (s : State) : s.hostReset.cfg = s.cfg := rfl
@[simp] theorem hostReset_tile (s : State) : s.hostReset.tile = (State.resetWith s.cfg).tile := rfl
@[simp] theorem hostReset_pal (s : State) : s.hostReset.pal = (State.resetWith s.cfg).pal := rfl
@[simp] theorem hostReset_entry (s : State) : s.hostReset.entry = (State.resetWith s.cfg).entry := rfl
@[simp] theorem hostReset_raw (s : State) : s.hostReset.raw = (State.resetWith s.cfg).raw := rfl
@[simp] theorem hostReset_pix (s : State) : s.hostReset.pix = (State.resetWith s.cfg).pix := rfl
@[simp] theorem hostReset_c15 (s : State) : s.hostReset.c15 = (State.resetWith s.cfg).c15 := rfl
@[simp] theorem hostReset_c15V (s : State) : s.hostReset.c15V = (State.resetWith s.cfg).c15V := rfl
@[simp] theorem hostReset_rgb (s : State) : s.hostReset.rgb = (State.resetWith s.cfg).rgb := rfl
@[simp] theorem hostReset_rgbV (s : State) : s.hostReset.rgbV = (State.resetWith s.cfg).rgbV := rfl
@[simp] theorem hostReset_ent (s : State) : s.hostReset.ent = (State.resetWith s.cfg).ent := rfl
@[simp] theorem hostReset_entV (s : State) : s.hostReset.entV = (State.resetWith s.cfg).entV := rfl
@[simp] theorem hostReset_canvas (s : State) : s.hostReset.canvas = (State.resetWith s.cfg).canvas := rfl
@[simp] theorem hostReset_raster (s : State) : s.hostReset.raster = (State.resetWith s.cfg).raster := rfl
@[simp] theorem hostReset_mode (s : State) : s.hostReset.mode = (State.resetWith s.cfg).mode := rfl
@[simp] theorem hostReset_status (s : State) : s.hostReset.status = (State.resetWith s.cfg).status := rfl
@[simp] theorem hostReset_finfo (s : State) : s.hostReset.finfo = (State.resetWith s.cfg).finfo := rfl
@[simp] theorem hostReset_host (s : State) : s.hostReset.host = s.host := rfl
@[simp] theorem hostReset_draws (s : State) : s.hostReset.draws = s.draws := rfl


end Sys2Proof.Machine
end

