-- ==== Sys2Proof/Laws/Memory.lean ====
section
/-! SUPPORT. The laws of memories: a read after a write, ranges, the canonical form, which keys a memory lists. -/

namespace Sys2Proof.Machine

variable {α : Type}

@[simp] theorem read_nil (a : Nat) : Memory.read ([] : Memory α) a = none := rfl

theorem read_cons (k : Nat) (v : α) (m : Memory α) (a : Nat) :
    Memory.read ((k, v) :: m) a = if k = a then some v else Memory.read m a := rfl

/-- A read after a write: the written element has the new value, every other one is as before. -/
theorem read_write (m : Memory α) (a b : Nat) (v : α) :
    (m.write a v).read b = if a = b then some v else m.read b := by
  induction m with
  | nil => rfl
  | cons p m ih =>
    obtain ⟨k, u⟩ := p
    simp only [Memory.write]
    split_ifs <;> simp only [read_cons, ih] <;> grind

@[simp] theorem read_write_same (m : Memory α) (a : Nat) (v : α) : (m.write a v).read a = some v := by
  simp [read_write]

theorem read_write_other (m : Memory α) {a b : Nat} (v : α) (h : a ≠ b) : (m.write a v).read b = m.read b := by
  simp [read_write, h]

/-- A read after a range write. -/
theorem read_writeRange (m : Memory α) (base n : Nat) (f : Nat → α) (b : Nat) :
    (m.writeRange base n f).read b = if base ≤ b ∧ b < base + n then some (f (b - base)) else m.read b := by
  induction n with
  | zero => simp only [Memory.writeRange]; rw [if_neg (by omega)]
  | succ n ih =>
    simp only [Memory.writeRange, read_write, ih]
    by_cases h : base + n = b
    · subst h; simp
    · simp only [h, if_false]
      by_cases h2 : base ≤ b ∧ b < base + n
      · rw [if_pos h2, if_pos (by omega)]
      · rw [if_neg h2, if_neg (by omega)]

/-- A key of a memory after a write is the written one or an old one. -/
theorem mem_write (m : Memory α) (a : Nat) (v : α) (p : Nat × α) (h : p ∈ m.write a v) : p.1 = a ∨ p ∈ m := by
  induction m with
  | nil => simp [Memory.write] at h; simp [h]
  | cons q m ih =>
    obtain ⟨k, u⟩ := q
    simp only [Memory.write] at h
    split_ifs at h <;> simp only [List.mem_cons] at h ⊢ <;> grind

/-- A write keeps the canonical form. -/
theorem write_wf (m : Memory α) (a : Nat) (v : α) (h : m.wf) : (m.write a v).wf := by
  induction m with
  | nil => simp [Memory.write]
  | cons q m ih =>
    obtain ⟨k, u⟩ := q
    obtain ⟨hk, hm⟩ := List.pairwise_cons.mp h
    simp only [Memory.write]
    split_ifs with h1 h2
    · exact List.pairwise_cons.mpr ⟨by
        intro p hp
        rcases List.mem_cons.mp hp with rfl | hp
        · exact h1
        · exact Nat.lt_trans h1 (hk p hp), h⟩
    · subst h2; exact List.pairwise_cons.mpr ⟨hk, hm⟩
    · refine List.pairwise_cons.mpr ⟨fun p hp => ?_, ih hm⟩
      rcases mem_write m a v p hp with h3 | h3
      · simp only [h3]; omega
      · exact hk p h3

/-- A range write keeps the canonical form. -/
theorem writeRange_wf (m : Memory α) (base n : Nat) (f : Nat → α) (h : m.wf) : (m.writeRange base n f).wf := by
  induction n with
  | zero => exact h
  | succ n ih => exact write_wf _ _ _ ih

/-- A key of a memory after a range write is in the range or an old one. -/
theorem mem_writeRange (m : Memory α) (base n : Nat) (f : Nat → α) (p : Nat × α) (h : p ∈ m.writeRange base n f) :
    (base ≤ p.1 ∧ p.1 < base + n) ∨ p ∈ m := by
  induction n with
  | zero => exact .inr h
  | succ n ih =>
    rcases mem_write _ _ _ p h with h | h
    · left; omega
    · rcases ih h with h | h
      · left; omega
      · exact .inr h

@[simp] theorem nil_wf : Memory.wf ([] : Memory α) := List.Pairwise.nil

/-- What a memory lists is what reading it gives. -/
theorem read_of_mem (m : Memory α) (h : m.wf) (p : Nat × α) (hp : p ∈ m) : m.read p.1 = some p.2 := by
  induction m with
  | nil => simp at hp
  | cons q m ih =>
    obtain ⟨k, u⟩ := q
    obtain ⟨hk, hm⟩ := List.pairwise_cons.mp h
    rcases List.mem_cons.mp hp with rfl | hp
    · simp [read_cons]
    · have := hk p hp
      rw [read_cons, if_neg (by simp only at this; omega), ih hm hp]

/-- What reading a memory gives is listed. -/
theorem mem_of_read (m : Memory α) (a : Nat) (v : α) (h : m.read a = some v) : (a, v) ∈ m := by
  induction m with
  | nil => simp at h
  | cons q m ih =>
    obtain ⟨k, u⟩ := q
    rw [read_cons] at h
    split_ifs at h with hk
    · simp_all
    · exact List.mem_cons_of_mem _ (ih h)

/-- Two memories in canonical form that read alike are equal: equal memories are equal data. -/
theorem memory_ext (m n : Memory α) (hm : m.wf) (hn : n.wf) (h : ∀ a, m.read a = n.read a) : m = n := by
  induction m generalizing n with
  | nil =>
    cases n with
    | nil => rfl
    | cons q n =>
      obtain ⟨l, w⟩ := q
      have := h l
      simp [read_cons] at this
  | cons p m ih =>
    obtain ⟨k, u⟩ := p
    cases n with
    | nil => have := h k; simp [read_cons] at this
    | cons q n =>
      obtain ⟨l, w⟩ := q
      have hkl : k = l := by
        obtain ⟨h1, -⟩ := List.pairwise_cons.mp hm
        obtain ⟨h2, -⟩ := List.pairwise_cons.mp hn
        have e1 := mem_of_read _ _ _ (by rw [← h]; simp [read_cons] : Memory.read ((l, w) :: n) k = some u)
        have e2 := mem_of_read _ _ _ (by rw [h]; simp [read_cons] : Memory.read ((k, u) :: m) l = some w)
        rcases List.mem_cons.mp e1 with e1 | e1
        · exact (Prod.mk.inj e1).1
        · rcases List.mem_cons.mp e2 with e2 | e2
          · exact ((Prod.mk.inj e2).1).symm
          · have := h1 _ e2; have := h2 _ e1; simp only at *; omega
      subst hkl
      have huw : u = w := by have := h k; simpa [read_cons] using this
      subst huw
      congr 1
      refine ih n (List.pairwise_cons.mp hm).2 (List.pairwise_cons.mp hn).2 fun a => ?_
      by_cases ha : k = a
      · subst ha
        have h1 : ∀ (l : Memory α), Memory.wf ((k, u) :: l) → l.read k = none := by
          intro l hl
          cases hr : l.read k with
          | none => rfl
          | some v => exact absurd ((List.pairwise_cons.mp hl).1 _ (mem_of_read _ _ _ hr)) (by simp)
        rw [h1 _ hm, h1 _ hn]
      · have := h a; simpa [read_cons, ha] using this

/-- No unwritten element is found exactly when all are written. -/
theorem firstUnwritten_eq_none (m : Memory α) (base n : Nat) :
    m.firstUnwritten base n = none ↔ ∀ i < n, (m.read (base + i)).isSome = true := by
  simp [Memory.firstUnwritten, Option.isSome_iff_ne_none]

/-- The element found is the lowest unwritten one. -/
theorem firstUnwritten_eq_some (m : Memory α) (base n i : Nat) :
    m.firstUnwritten base n = some i ↔
      i < n ∧ m.read (base + i) = none ∧ ∀ j < i, (m.read (base + j)).isSome = true := by
  simp only [Memory.firstUnwritten, List.find?_range_eq_some]
  simp only [List.mem_range, Option.isNone_iff_eq_none, Bool.not_eq_true', Option.isNone_eq_false_iff]
  tauto

/-- The value of an element is what a read gives. -/
theorem value_of_read {w : Nat} (m : Memory (BitVec w)) (a : Nat) (v : BitVec w) (h : m.read a = some v) :
    m.value a = v := by
  simp [Memory.value, h]

/-- A written element reads as its value. -/
theorem read_of_written {w : Nat} (m : Memory (BitVec w)) (a : Nat) (h : (m.read a).isSome = true) :
    m.read a = some (m.value a) := by
  obtain ⟨v, hv⟩ := Option.isSome_iff_exists.mp h
  rw [hv, value_of_read m a v hv]

/-- Moving every key down by `base` moves every read down. -/
theorem read_map_sub (m : Memory α) (base a : Nat) (h : ∀ p ∈ m, base ≤ p.1) :
    Memory.read (m.map (fun p => (p.1 - base, p.2))) a = m.read (a + base) := by
  induction m with
  | nil => rfl
  | cons q m ih =>
    obtain ⟨k, u⟩ := q
    have hk : base ≤ k := h (k, u) (by simp)
    simp only [List.map_cons, read_cons, ih fun p hp => h p (List.mem_cons_of_mem _ hp)]
    congr 1
    exact propext ⟨fun _ => by omega, fun _ => by omega⟩

/-- Moving every key down by `base` keeps the canonical form. -/
theorem map_sub_wf (m : Memory α) (base : Nat) (h : ∀ p ∈ m, base ≤ p.1) (hm : m.wf) :
    Memory.wf (m.map (fun p => (p.1 - base, p.2))) := by
  induction m with
  | nil => exact List.Pairwise.nil
  | cons q m ih =>
    obtain ⟨h1, h2⟩ := List.pairwise_cons.mp hm
    refine List.pairwise_cons.mpr ⟨?_, ih (fun p hp => h p (List.mem_cons_of_mem _ hp)) h2⟩
    intro p hp
    obtain ⟨p', hp', rfl⟩ := List.mem_map.mp hp
    have := h1 p' hp'
    have := h q (by simp)
    simp only; omega

end Sys2Proof.Machine
end

