-- ==== Sys2Proof/Laws/Checks.lean ====
section
/-! SUPPORT. What the checks of Operands.lean find: one lemma per check, in the words of Safety.lean. -/

namespace Sys2Proof.Machine

@[simp] theorem checked_none (s : State) (go : Host.Outcome State Fault Refusal) : s.checked none go = go := rfl

@[simp] theorem checked_some (s : State) (f : FaultRecord) (go : Host.Outcome State Fault Refusal) :
    s.checked (some f) go = .next (s.raise f) := rfl

/-- Raising a fault in the words of Safety.lean. -/
theorem raise_eq_withFault (s : State) (c : Cause) (info : Word) :
    s.raise { cause := c, info := info } = withFault s c info := rfl

/-- A checked command that answers a next state raised the fault found, or found none and went on. -/
theorem checked_cases {s t : State} {found : Option FaultRecord} {go : Host.Outcome State Fault Refusal}
    (h : s.checked found go = .next t) : (∃ f, found = some f ∧ t = s.raise f) ∨ (found = none ∧ go = .next t) := by
  cases found with
  | none => exact .inr ⟨rfl, h⟩
  | some f => exact .inl ⟨f, rfl, by cases h; rfl⟩

/-- A fault inside DrawEntry leaves a free canvas (60_exceptions R204 b). -/
theorem raiseDrawing_of_draw {s : State} {f : FaultRecord} (h : f.cause = .tileMissing ∨ f.cause = .palMissing) :
    s.raiseDrawing f = s.loseCanvas.raise f := by
  rcases h with h | h <;> simp only [State.raiseDrawing, h]

/-- UNINIT leaves everything but the fault record (60_exceptions R204 a). -/
theorem raiseDrawing_of_uninit {s : State} {f : FaultRecord} (h : f.cause = .uninit) :
    s.raiseDrawing f = s.raise f := by
  simp only [State.raiseDrawing, h]

/-- Two lowest unwritten elements are one. -/
theorem firstUnwritten_of_lowest {α : Type} {m : Memory α} {base n i : Nat} (h : LowestUnwritten m base n i) :
    m.firstUnwritten base n = some i := (firstUnwritten_eq_some m base n i).mpr h

theorem firstUnwritten_of_written {α : Type} {m : Memory α} {base n : Nat} (h : Written m base n) :
    m.firstUnwritten base n = none := (firstUnwritten_eq_none m base n).mpr h

/-- Either all elements are written or there is a lowest unwritten one. -/
theorem written_or_lowest {α : Type} (m : Memory α) (base n : Nat) :
    Written m base n ∨ ∃ i, LowestUnwritten m base n i := by
  cases h : m.firstUnwritten base n with
  | none => exact .inl ((firstUnwritten_eq_none m base n).mp h)
  | some i => exact .inr ⟨i, (firstUnwritten_eq_some m base n i).mp h⟩

theorem rawFault_of_written {s : State} (h : Written s.raw 0 32) : s.rawFault = none := by
  simp [State.rawFault, firstUnwritten_of_written h]

theorem rawFault_of_lowest {s : State} {i : Nat} (h : LowestUnwritten s.raw 0 32 i) :
    s.rawFault = some (uninitAt (rawPort i)) := by
  simp [State.rawFault, firstUnwritten_of_lowest h]

theorem pixFault_of_written {s : State} (h : Written s.pix 0 64) : s.pixFault = none := by
  simp [State.pixFault, firstUnwritten_of_written h]

theorem pixFault_of_lowest {s : State} {k : Nat} (h : LowestUnwritten s.pix 0 64 k) :
    s.pixFault = some (uninitAt (pixPort k)) := by
  simp [State.pixFault, firstUnwritten_of_lowest h]

theorem entryFault_of_written {s : State} {e : Nat} (h : Written s.entry (8 * e) 5) : s.entryFault e = none := by
  have : s.entry.firstUnwritten (entryKey e 0) 5 = none := firstUnwritten_of_written h
  simp [State.entryFault, this]

theorem entryFault_of_lowest {s : State} {e i : Nat} (h : LowestUnwritten s.entry (8 * e) 5 i) :
    s.entryFault e = some (uninitAt (entryPort e i)) := by
  have : s.entry.firstUnwritten (entryKey e 0) 5 = some i := firstUnwritten_of_lowest h
  simp [State.entryFault, this]

/-- Any fault a slot's bytes raise is UNINIT. -/
theorem entryFault_cause {s : State} {e : Nat} {f : FaultRecord} (h : s.entryFault e = some f) : f.cause = .uninit := by
  simp only [State.entryFault, Option.map_eq_some_iff] at h
  obtain ⟨_, _, rfl⟩ := h
  rfl

theorem tileSlotFault_of_lt {s : State} {t : Nat} (h : t < s.cfg.nTiles) : s.tileSlotFault t = none := by
  simp [State.tileSlotFault, Nat.not_le.mpr h]

theorem tileSlotFault_of_le {s : State} {t : Nat} (h : s.cfg.nTiles ≤ t) :
    s.tileSlotFault t = some { cause := .operandRange, info := BitVec.ofNat 32 t } := by
  simp [State.tileSlotFault, h]

theorem entrySlotFault_of_lt {s : State} {e : Nat} (h : e < s.cfg.nEntries) : s.entrySlotFault e = none := by
  simp [State.entrySlotFault, Nat.not_le.mpr h]

theorem entrySlotFault_of_le {s : State} {e : Nat} (h : s.cfg.nEntries ≤ e) :
    s.entrySlotFault e = some { cause := .operandRange, info := BitVec.ofNat 32 e } := by
  simp [State.entrySlotFault, h]

theorem countFault_of_le {s : State} {n : Nat} (h : n ≤ s.cfg.nEntries) : s.countFault n = none := by
  simp [State.countFault, Nat.not_lt.mpr h]

theorem countFault_of_lt {s : State} {n : Nat} (h : s.cfg.nEntries < n) :
    s.countFault n = some { cause := .operandRange, info := BitVec.ofNat 32 n } := by
  simp [State.countFault, h]

theorem tileFault_of_readable {s : State} {t : Nat} (h : TileReadable s t) : s.tileFault t = none := by
  have h2 : s.tile.firstUnwritten (tileKey t 0) 32 = none := firstUnwritten_of_written h.2
  simp [State.tileFault, Nat.not_le.mpr h.1, h2]

theorem tileFault_of_not_readable {s : State} {t : Nat} (h : ¬ TileReadable s t) :
    s.tileFault t = some { cause := .tileMissing, info := BitVec.ofNat 32 t } := by
  rw [State.tileFault, if_pos]
  by_contra hn
  simp only [not_or, Nat.not_le, Option.not_isSome_iff_eq_none] at hn
  exact h ⟨hn.1, (firstUnwritten_eq_none s.tile (tileKey t 0) 32).mp hn.2⟩

/-- A tile slot can be read exactly when TileRead raises nothing. -/
theorem tileFault_eq_none (s : State) (t : Nat) : s.tileFault t = none ↔ TileReadable s t := by
  constructor
  · intro h
    by_contra hn
    rw [tileFault_of_not_readable hn] at h
    exact absurd h (by simp)
  · exact tileFault_of_readable

end Sys2Proof.Machine
end

