-- ==== Sys2Proof/Laws/Codec.lean ====
section
/-! SUPPORT. The bits of decoded pixels and encoded bytes. -/

namespace Sys2Proof.Machine

/-- Bit `p` of a pixel is its plane-`p` bit. -/
theorem getLsbD_pixelOfPlanes (b0 b1 b2 b3 : Bool) :
    (pixelOfPlanes b0 b1 b2 b3).getLsbD 0 = b0 ∧ (pixelOfPlanes b0 b1 b2 b3).getLsbD 1 = b1 ∧
      (pixelOfPlanes b0 b1 b2 b3).getLsbD 2 = b2 ∧ (pixelOfPlanes b0 b1 b2 b3).getLsbD 3 = b3 := by
  revert b0 b1 b2 b3; decide

/-- A pixel is the sum of its planes' weights. -/
theorem toNat_pixelOfPlanes (b0 b1 b2 b3 : Bool) :
    (pixelOfPlanes b0 b1 b2 b3).toNat = b0.toNat + 2 * b1.toNat + 4 * b2.toNat + 8 * b3.toNat := by
  revert b0 b1 b2 b3; decide

/-- A pixel is put together again from its bits. -/
theorem pixelOfPlanes_bits (v : Pixel) :
    pixelOfPlanes (v.getLsbD 0) (v.getLsbD 1) (v.getLsbD 2) (v.getLsbD 3) = v := by
  revert v; decide

/-- Bit `7 - c` of a packed row is column `c`. -/
theorem getLsbD_packRow (col : Nat → Bool) (c : Nat) (h : c < 8) : (packRow col).getLsbD (7 - c) = col c := by
  simp only [packRow]
  generalize h0 : col 0 = b0; generalize h1 : col 1 = b1; generalize h2 : col 2 = b2; generalize h3 : col 3 = b3
  generalize h4 : col 4 = b4; generalize h5 : col 5 = b5; generalize h6 : col 6 = b6; generalize h7 : col 7 = b7
  rcases (by omega : c = 0 ∨ c = 1 ∨ c = 2 ∨ c = 3 ∨ c = 4 ∨ c = 5 ∨ c = 6 ∨ c = 7) with
    rfl | rfl | rfl | rfl | rfl | rfl | rfl | rfl <;>
    simp only [h0, h1, h2, h3, h4, h5, h6, h7] <;> clear h0 h1 h2 h3 h4 h5 h6 h7 <;>
    revert b0 b1 b2 b3 b4 b5 b6 b7 <;> decide

/-- Two bytes alike in every column are equal. -/
theorem byte_ext (a b : Byte) (h : ∀ c < 8, a.getLsbD (7 - c) = b.getLsbD (7 - c)) : a = b := by
  apply BitVec.eq_of_getLsbD_eq
  intro i hi
  have := h (7 - i) (by omega)
  rwa [show 7 - (7 - i) = i by omega] at this

/-- The plane bits of an encoded grid, by row and column (40_tile_codec R101). -/
theorem getLsbD_encodeTile (g : Grid) (r c : Nat) (hr : r < 8) (hc : c < 8) :
    (encodeTile g (2 * r)).getLsbD (7 - c) = (g r c).getLsbD 0 ∧
      (encodeTile g (2 * r + 1)).getLsbD (7 - c) = (g r c).getLsbD 1 ∧
      (encodeTile g (16 + 2 * r)).getLsbD (7 - c) = (g r c).getLsbD 2 ∧
      (encodeTile g (17 + 2 * r)).getLsbD (7 - c) = (g r c).getLsbD 3 := by
  simp only [encodeTile, getLsbD_packRow _ c hc, byteRow, bytePlane]
  refine ⟨?_, ?_, ?_, ?_⟩ <;> congr 2 <;> omega

end Sys2Proof.Machine
end

