-- ==== Sys2Proof/Laws/Encoding.lean ====
section
/-! SUPPORT. The fields of a command word, and of an encoded command. -/

namespace Sys2Proof

theorem fieldOP_eq (w : Word) : fieldOP w = w.toNat % 256 := by
  simp [fieldOP, BitVec.extractLsb'_toNat]

theorem fieldRSV_eq (w : Word) : fieldRSV w = w.toNat / 256 % 256 := by
  simp [fieldRSV, BitVec.extractLsb'_toNat, Nat.shiftRight_eq_div_pow]

theorem fieldA_eq (w : Word) : fieldA w = w.toNat / 65536 := by
  have := w.isLt
  simp only [fieldA, BitVec.extractLsb'_toNat, Nat.shiftRight_eq_div_pow]
  omega

theorem opcode_lt (i : Instr) : i.opcode < 12 := by
  cases i <;> simp [Instr.opcode]

theorem operand_lt {i : Instr} (h : WellFormed i = true) : i.operand < 65536 := by
  cases i <;> simp_all [Instr.operand, WellFormed, operandFits]

/-- The word of a well-formed command as a number: `A * 65536 + OP`. -/
theorem toNat_encode {i : Instr} (h : WellFormed i = true) : (encode i).toNat = i.operand * 65536 + i.opcode := by
  have h1 := operand_lt h
  have h2 := opcode_lt i
  rw [encode, BitVec.toNat_or, BitVec.toNat_shiftLeft, BitVec.toNat_ofNat, BitVec.toNat_ofNat,
    Nat.mod_eq_of_lt (by omega : i.operand < 2 ^ 32), Nat.mod_eq_of_lt (by omega : i.opcode < 2 ^ 32),
    Nat.shiftLeft_eq, Nat.mod_eq_of_lt (by omega), Nat.mul_comm i.operand]
  exact (Nat.two_pow_add_eq_or_of_lt (by omega : i.opcode < 2 ^ 16) i.operand).symm

end Sys2Proof
end

