-- ==== Sys2Proof/Laws/CommandWords.lean ====
section
/-! SUPPORT. What the decoder and a CMD write do with a word, by its opcode and reserved fields as numbers. -/

namespace Sys2Proof.Machine

theorem decode_by_fields (w : Word) : decode w =
    if w.toNat / 256 % 256 = 0 then decodeOp (w.toNat % 256) (w.toNat / 65536) else .error .reservedNotZero := by
  rw [decode, fieldRSV_eq, fieldOP_eq, fieldA_eq]

theorem cmdWrite_of_error {s : State} {w : Word} {e : DecodeError} (hf : s.status.fault = false)
    (h : decode w = .error e) : cmdWrite s w = .next (withFault s .illegalCmd w) := by
  rw [cmdWrite, hf, h]; rfl

theorem plainCommandWords_of (s : State) {op : Nat} {i : Instr} (h : ∀ a, decodeOp op a = withoutOperand i a)
    (hop : op < 256) : PlainCommandWords s op i := by
  intro w hw
  refine ⟨fun he => ?_, fun hne hf => ?_⟩
  · rw [decode_by_fields, if_pos (by omega), hw, h, withoutOperand, if_pos (by omega)]
  · by_cases hr : w.toNat / 256 % 256 = 0
    · refine cmdWrite_of_error hf (e := .operandNotZero) ?_
      rw [decode_by_fields, if_pos hr, hw, h, withoutOperand, if_neg (by omega)]
    · exact cmdWrite_of_error hf (e := .reservedNotZero) (by rw [decode_by_fields, if_neg hr])

theorem operandCommandWords_of (s : State) {op : Nat} {i : Nat → Instr} (h : ∀ a, decodeOp op a = .ok (i a)) :
    OperandCommandWords s op i := by
  intro w hw
  refine ⟨fun hr => ?_, fun hr hf => ?_⟩
  · rw [decode_by_fields, if_pos hr, hw, h]
  · exact cmdWrite_of_error hf (e := .reservedNotZero) (by rw [decode_by_fields, if_neg hr])

end Sys2Proof.Machine
end

