-- ==== Sys2Proof/Laws/Compositor.lean ====
section
/-! SUPPORT. Loops, canvas keys, what drawing an entry does to the canvas and when it raises a fault, the bounding box. -/

namespace Sys2Proof.Machine

/-! ### Loops -/

/-- A loop over a list and one more element. -/
theorem runLoop_append {α β ε : Type} (body : β → α → Except ε β) (as bs : List α) (b : β) :
    runLoop body (as ++ bs) b =
      match runLoop body as b with
      | .ok b' => runLoop body bs b'
      | .error e => .error e := by
  induction as generalizing b with
  | nil => rfl
  | cons a as ih =>
    simp only [List.cons_append, runLoop]
    cases body b a with
    | ok b' => exact ih b'
    | error e => rfl

/-- What every step of a loop keeps, the loop keeps. -/
theorem runLoop_keeps {α β ε : Type} {body : β → α → Except ε β} (P : β → Prop) {as : List α} {b b' : β}
    (step : ∀ a ∈ as, ∀ c c', P c → body c a = .ok c' → P c') (hb : P b) (h : runLoop body as b = .ok b') : P b' := by
  induction as generalizing b with
  | nil => cases h; exact hb
  | cons a as ih =>
    simp only [runLoop] at h
    cases hc : body b a with
    | ok c =>
      rw [hc] at h
      exact ih (fun a' ha' => step a' (List.mem_cons_of_mem _ ha')) (step a (by simp) _ _ hb hc) h
    | error e => rw [hc] at h; exact absurd h (by simp)

/-- What every fault of a loop's body satisfies, the loop's fault satisfies. -/
theorem runLoop_error {α β ε : Type} {body : β → α → Except ε β} (P : ε → Prop) {as : List α} {b : β} {e : ε}
    (step : ∀ a ∈ as, ∀ c e', body c a = .error e' → P e') (h : runLoop body as b = .error e) : P e := by
  induction as generalizing b with
  | nil => exact absurd h (by simp [runLoop])
  | cons a as ih =>
    simp only [runLoop] at h
    cases hc : body b a with
    | ok c =>
      rw [hc] at h
      exact ih (fun a' ha' => step a' (List.mem_cons_of_mem _ ha')) h
    | error e' => rw [hc] at h; cases h; exact step a (by simp) _ _ hc

/-- A loop none of whose elements raises a fault completes. -/
theorem runLoop_ok {α β ε : Type} {body : β → α → Except ε β} {as : List α} (b : β)
    (step : ∀ a ∈ as, ∀ c, ∃ c', body c a = .ok c') : ∃ b', runLoop body as b = .ok b' := by
  induction as generalizing b with
  | nil => exact ⟨b, rfl⟩
  | cons a as ih =>
    obtain ⟨c, hc⟩ := step a (by simp) b
    obtain ⟨b', hb'⟩ := ih c (fun a' ha' => step a' (List.mem_cons_of_mem _ ha'))
    exact ⟨b', by simp only [runLoop, hc, hb']⟩

/-- A loop whose elements before one complete raises that one's fault. -/
theorem runLoop_first_error {α β ε : Type} {body : β → α → Except ε β} {as bs : List α} {a : α} {e : ε} (b : β)
    (before : ∀ a' ∈ as, ∀ c, ∃ c', body c a' = .ok c') (h : ∀ c, body c a = .error e) :
    runLoop body (as ++ a :: bs) b = .error e := by
  obtain ⟨b', hb'⟩ := runLoop_ok b before
  rw [runLoop_append, hb']
  simp only [runLoop, h]

/-! ### Canvas keys -/

/-- On the canvas, and as far as its row stride reaches, keys tell positions apart. -/
theorem canvasKey_inj {x y x' y' : Int} (hx : -256 ≤ x ∧ x < 768) (hx' : -256 ≤ x' ∧ x' < 768) (hy : -128 ≤ y)
    (hy' : -128 ≤ y') (h : canvasKey x y = canvasKey x' y') : x = x' ∧ y = y' := by
  simp only [canvasKey] at h
  omega

theorem keyX_canvasKey {x y : Int} (hx : -256 ≤ x ∧ x < 768) (hy : -128 ≤ y) : keyX (canvasKey x y) = x := by
  simp only [keyX, canvasKey]; omega

theorem keyY_canvasKey {x y : Int} (hx : -256 ≤ x ∧ x < 768) (hy : -128 ≤ y) : keyY (canvasKey x y) = y := by
  simp only [keyY, canvasKey]; omega

theorem canvasKey_key (k : Nat) : canvasKey (keyX k) (keyY k) = k := by
  simp only [keyX, keyY, canvasKey]; omega

/-- A position of the canvas has a key the canvas form allows. -/
theorem canvasKey_bounds {x y : Int} (h : InCanvas x y) :
    canvasKey x y % 1024 < 527 ∧ canvasKey x y / 1024 < 271 := by
  simp only [canvasKey]; omega

/-- A key the canvas form allows is a position of the canvas. -/
theorem inCanvas_key {k : Nat} (h : k % 1024 < 527 ∧ k / 1024 < 271) : InCanvas (keyX k) (keyY k) := by
  simp only [InCanvas, keyX, keyY]; omega

/-- A canvas write keeps the canvas form. -/
theorem canvasWrite_wf {m : Memory Paint} {x y : Int} {p : Paint} (hm : canvasWf m) (h : InCanvas x y) :
    canvasWf (canvasWrite m x y p) := by
  refine ⟨write_wf _ _ _ hm.1, fun q hq => ?_⟩
  rcases mem_write _ _ _ _ hq with hq | hq
  · rw [hq]; exact canvasKey_bounds h
  · exact hm.2 q hq

/-- Every free canvas has the canvas form. -/
theorem canvasOfPositions_wf (l : List ((Fin 527 × Fin 271) × Paint)) : canvasWf (canvasOfPositions l) := by
  have H : ∀ (l : List ((Fin 527 × Fin 271) × Paint)) (m : Memory Paint), canvasWf m →
      canvasWf (l.foldl (fun m p => m.write (1024 * p.1.2.val + p.1.1.val) p.2) m) := by
    intro l
    induction l with
    | nil => exact fun m h => h
    | cons p l ih =>
      intro m hm
      apply ih
      refine ⟨write_wf _ _ _ hm.1, fun q hq => ?_⟩
      obtain ⟨⟨⟨i, hi⟩, ⟨j, hj⟩⟩, pt⟩ := p
      rcases mem_write _ _ _ _ hq with hq | hq
      · rw [hq]; simp only; omega
      · exact hm.2 q hq
  exact H l [] ⟨List.Pairwise.nil, by simp⟩

/-! ### Parsing -/

/-- A parsed entry lies in the ranges of 41_compositor R131. -/
theorem parseEntry_wf (entry : EntryBytes) : (parseEntry entry).wf := by
  have h0 := (entry 0).isLt
  have h2 : (entry 2 &&& 0x7F).toNat ≤ 0x7F := by
    rw [BitVec.toNat_and]; exact Nat.and_le_right
  simp only [ParsedEntry.wf, parseEntry]
  refine ⟨?_, ?_, ?_, ?_⟩ <;> split <;> omega

/-- The tiles an entry draws are its quadrants' tiles, in order. -/
theorem spriteTiles_eq (e : ParsedEntry) : spriteTiles e = (quadrants e).map (quadTile e) := by
  simp only [spriteTiles, quadrants]
  split <;> simp [quadTile, Nat.add_assoc]

/-! ### Painting one pixel -/

/-- A pixel whose palette entry is there, or needs none, has its paint. -/
theorem pixelPaint_ok {s : State} {pal : BitVec 3} {v : Pixel}
    (h : s.mode = .indexed ∨ (s.pal.read (16 * pal.toNat + v.toNat)).isSome = true) :
    pixelPaint s.mode s.pal pal v = .ok (paintOf s pal v) := by
  simp only [pixelPaint, paintOf, palAddr]
  cases hm : s.mode with
  | indexed => rfl
  | direct =>
    rw [hm] at h
    obtain ⟨c, hc⟩ := Option.isSome_iff_exists.mp (h.resolve_left (by simp))
    simp [hc, value_of_read _ _ _ hc]

/-- In direct mode a pixel whose palette entry is unwritten raises PAL_MISSING with its palette address. -/
theorem pixelPaint_error {s : State} {pal : BitVec 3} {v : Pixel} (hm : s.mode = .direct)
    (h : s.pal.read (16 * pal.toNat + v.toNat) = none) :
    pixelPaint s.mode s.pal pal v = .error (palFault (16 * pal.toNat + v.toNat)) := by
  simp [pixelPaint, hm, palAddr, h]

/-- A paintable pixel is painted, unless it is 0. -/
theorem drawPixel_ok {s : State} {e : ParsedEntry} {t r c : Nat} (o : Int × Int) (m : Memory Paint)
    (h : PixelPaintable s e.pal t r c) :
    drawPixel s e o (decodeTile (s.tileBytes t)) m (r, c) = .ok
      (if decodeTile (s.tileBytes t) r c = 0 then m
       else canvasWrite m (o.1 + flipped e.hf c) (o.2 + flipped e.vf r)
         (paintOf s e.pal (decodeTile (s.tileBytes t) r c))) := by
  simp only [drawPixel]
  split
  · rfl
  · rename_i hv
    rw [pixelPaint_ok (by rcases h with h | h | h <;> simp_all)]

/-- A pixel that is not paintable raises PAL_MISSING. -/
theorem drawPixel_error {s : State} {e : ParsedEntry} {t r c : Nat} (o : Int × Int) (m : Memory Paint)
    (h : ¬ PixelPaintable s e.pal t r c) :
    drawPixel s e o (decodeTile (s.tileBytes t)) m (r, c) =
      .error (palFault (16 * e.pal.toNat + (decodeTile (s.tileBytes t) r c).toNat)) := by
  simp only [PixelPaintable, not_or, Option.not_isSome_iff_eq_none] at h
  obtain ⟨h1, h2, h3⟩ := h
  have hm : s.mode = .direct := by cases hm : s.mode <;> simp_all
  simp only [drawPixel, h2, if_false, pixelPaint_error hm h3]

/-- What drawing a pixel can do: leave the canvas, or paint the pixel's position, or raise PAL_MISSING. -/
theorem drawPixel_cases (s : State) (e : ParsedEntry) (o : Int × Int) (g : Grid) (m : Memory Paint) (p : Nat × Nat) :
    drawPixel s e o g m p = .ok m ∨
      (∃ paint, drawPixel s e o g m p =
        .ok (canvasWrite m (o.1 + flipped e.hf p.2) (o.2 + flipped e.vf p.1) paint)) ∨
      ∃ a, drawPixel s e o g m p = .error (palFault a) := by
  simp only [drawPixel]
  split
  · exact .inl rfl
  · cases h : pixelPaint s.mode s.pal e.pal (g p.1 p.2) with
    | ok paint => exact .inr (.inl ⟨paint, rfl⟩)
    | error f =>
      refine .inr (.inr ⟨palAddr e.pal (g p.1 p.2), ?_⟩)
      simp only [pixelPaint] at h
      split at h
      · split at h
        · exact absurd h (by simp)
        · cases h; rfl
      · exact absurd h (by simp)

/-! ### Drawing a quadrant -/

theorem mem_tilePixels (r c : Nat) : (r, c) ∈ tilePixels ↔ r < 8 ∧ c < 8 := by
  simp [tilePixels]

/-- The pixels before one, in row and column order. -/
theorem tilePixels_split {r c : Nat} (hr : r < 8) (hc : c < 8) : ∃ before after,
    tilePixels = before ++ (r, c) :: after ∧
      ∀ p ∈ before, p.1 < 8 ∧ p.2 < 8 ∧ (p.1 < r ∨ p.1 = r ∧ p.2 < c) := by
  refine ⟨tilePixels.take (8 * r + c), tilePixels.drop (8 * r + c + 1), ?_⟩
  have H : ∀ r < 8, ∀ c < 8, tilePixels = tilePixels.take (8 * r + c) ++ (r, c) :: tilePixels.drop (8 * r + c + 1) ∧
      ∀ p ∈ tilePixels.take (8 * r + c), p.1 < 8 ∧ p.2 < 8 ∧ (p.1 < r ∨ p.1 = r ∧ p.2 < c) := by decide +kernel
  exact H r hr c hc

/-- A flip is its own inverse on 0..7. -/
theorem flipped_flipped (f : Bool) {n : Nat} (h : n < 8) : flipped f (flipped f n) = n := by
  simp only [flipped]; split <;> omega

theorem flipped_lt (f : Bool) {n : Nat} (h : n < 8) : flipped f n < 8 := by
  simp only [flipped]; split <;> omega

/-- The paint the 8 x 8 square at `o` puts at `(x, y)` from grid `g` (41_compositor R134, R135). -/
def squarePaint (s : State) (e : ParsedEntry) (o : Int × Int) (g : Grid) (x y : Int) : Cell :=
  let r := flipped e.vf (y - o.2).toNat
  let c := flipped e.hf (x - o.1).toNat
  if o.1 ≤ x ∧ x < o.1 + 8 ∧ o.2 ≤ y ∧ y < o.2 + 8 ∧ g r c ≠ 0 then some (paintOf s e.pal (g r c)) else none

/-- The pixels `ps` of a tile, painted one after the other. -/
theorem runLoop_drawPixel {s : State} {e : ParsedEntry} {t : Nat} {o : Int × Int}
    (ho : -256 ≤ o.1 ∧ o.1 ≤ 760 ∧ -128 ≤ o.2) (ps : List (Nat × Nat)) (m : Memory Paint)
    (hps : ∀ p ∈ ps, p.1 < 8 ∧ p.2 < 8 ∧ PixelPaintable s e.pal t p.1 p.2) :
    ∃ m', runLoop (drawPixel s e o (decodeTile (s.tileBytes t))) ps m = .ok m' ∧
      ∀ x y, -256 ≤ x → x < 768 → -128 ≤ y → m'.read (canvasKey x y) =
        if (flipped e.vf (y - o.2).toNat, flipped e.hf (x - o.1).toNat) ∈ ps then
          (squarePaint s e o (decodeTile (s.tileBytes t)) x y).or (m.read (canvasKey x y))
        else m.read (canvasKey x y) := by
  induction ps generalizing m with
  | nil => exact ⟨m, rfl, by simp⟩
  | cons p ps ih =>
    obtain ⟨r, c⟩ := p
    obtain ⟨hr, hc, hp⟩ := hps (r, c) (by simp)
    obtain ⟨m', hm', hread⟩ := ih (if decodeTile (s.tileBytes t) r c = 0 then m
       else canvasWrite m (o.1 + flipped e.hf c) (o.2 + flipped e.vf r)
         (paintOf s e.pal (decodeTile (s.tileBytes t) r c))) fun q hq => hps q (List.mem_cons_of_mem _ hq)
    refine ⟨m', by simp only [runLoop, drawPixel_ok o m hp]; exact hm', fun x y hx hx' hy => ?_⟩
    have hfr : flipped e.vf r < 8 := flipped_lt e.vf hr
    have hfc : flipped e.hf c < 8 := flipped_lt e.hf hc
    rw [hread x y hx hx' hy]
    -- the pixel (r, c) lands at (x, y) exactly when it is the one the square shows there
    have land : canvasKey (o.1 + flipped e.hf c) (o.2 + flipped e.vf r) = canvasKey x y ↔
        (o.1 ≤ x ∧ x < o.1 + 8 ∧ o.2 ≤ y ∧ y < o.2 + 8) ∧
          (flipped e.vf (y - o.2).toNat, flipped e.hf (x - o.1).toNat) = (r, c) := by
      constructor
      · intro h
        obtain ⟨h1, h2⟩ := canvasKey_inj (by omega) (by omega) (by omega) (by omega) h
        refine ⟨by omega, ?_⟩
        rw [show (y - o.2).toNat = flipped e.vf r by omega, show (x - o.1).toNat = flipped e.hf c by omega,
          flipped_flipped _ hr, flipped_flipped _ hc]
      · rintro ⟨h1, h2⟩
        obtain ⟨h2, h3⟩ := Prod.mk.inj h2
        have e1 : flipped e.vf r = (y - o.2).toNat := by rw [← h2, flipped_flipped _ (by omega)]
        have e2 : flipped e.hf c = (x - o.1).toNat := by rw [← h3, flipped_flipped _ (by omega)]
        congr 1 <;> omega
    by_cases hz : decodeTile (s.tileBytes t) r c = 0
    · rw [if_pos hz]
      by_cases hrc : (flipped e.vf (y - o.2).toNat, flipped e.hf (x - o.1).toNat) = (r, c)
      · obtain ⟨h1, h2⟩ := Prod.mk.inj hrc
        have : squarePaint s e o (decodeTile (s.tileBytes t)) x y = none := by
          simp [squarePaint, h1, h2, hz]
        simp [this]
      · simp only [List.mem_cons, hrc, false_or]
    · rw [if_neg hz]
      simp only [canvasWrite, read_write]
      by_cases hl : canvasKey (o.1 + flipped e.hf c) (o.2 + flipped e.vf r) = canvasKey x y
      · obtain ⟨h1, h2⟩ := land.mp hl
        obtain ⟨h3, h4⟩ := Prod.mk.inj h2
        have hs : squarePaint s e o (decodeTile (s.tileBytes t)) x y =
            some (paintOf s e.pal (decodeTile (s.tileBytes t) r c)) := by
          simp only [squarePaint, h3, h4]
          rw [if_pos ⟨h1.1, h1.2.1, h1.2.2.1, h1.2.2.2, hz⟩]
        rw [if_pos hl, h2, if_pos (List.mem_cons_self), hs]
        split <;> rfl
      · rw [if_neg hl]
        by_cases hrc : (flipped e.vf (y - o.2).toNat, flipped e.hf (x - o.1).toNat) = (r, c)
        · have hs : squarePaint s e o (decodeTile (s.tileBytes t)) x y = none := by
            rw [squarePaint, if_neg]
            intro hh
            exact hl (land.mpr ⟨⟨hh.1, hh.2.1, hh.2.2.1, hh.2.2.2.1⟩, hrc⟩)
          simp [hs]
        · simp only [List.mem_cons, hrc, false_or]

/-- Drawing one drawable quadrant paints its 8 x 8 square and nothing else. -/
theorem drawQuad_ok {s : State} {e : ParsedEntry} {q : Bool × Bool} (he : e.wf) (m : Memory Paint)
    (h : TileDrawable s e.pal (quadTile e q)) :
    ∃ m', drawQuad s e m q = .ok m' ∧ ∀ x y, -256 ≤ x → x < 768 → -128 ≤ y → m'.read (canvasKey x y) =
      (squarePaint s e (quadOrigin e q) (decodeTile (s.tileBytes (quadTile e q))) x y).or (m.read (canvasKey x y)) := by
  have ho : -256 ≤ (quadOrigin e q).1 ∧ (quadOrigin e q).1 ≤ 760 ∧ -128 ≤ (quadOrigin e q).2 := by
    obtain ⟨h1, h2, h3, h4⟩ := he
    have b1 := Bool.toNat_le (q.1 ^^ e.hf)
    simp only [quadOrigin]
    split <;> simp only <;> omega
  obtain ⟨m', hm', hread⟩ := runLoop_drawPixel (t := quadTile e q) ho tilePixels m fun p hp => by
    obtain ⟨hr, hc⟩ := (mem_tilePixels p.1 p.2).mp hp
    exact ⟨hr, hc, h.2 _ hr _ hc⟩
  refine ⟨m', by simp only [drawQuad, tileFault_of_readable h.1]; exact hm', fun x y hx hx' hy => ?_⟩
  rw [hread x y hx hx' hy]
  split
  · rfl
  · rename_i hn
    rw [mem_tilePixels] at hn
    have : squarePaint s e (quadOrigin e q) (decodeTile (s.tileBytes (quadTile e q))) x y = none := by
      rw [squarePaint, if_neg]
      intro hh
      exact hn ⟨flipped_lt _ (by omega), flipped_lt _ (by omega)⟩
    simp [this]

/-- A quadrant whose tile cannot be read raises TILE_MISSING. -/
theorem drawQuad_tileMissing {s : State} {e : ParsedEntry} {q : Bool × Bool} (m : Memory Paint)
    (h : ¬ TileReadable s (quadTile e q)) :
    drawQuad s e m q = .error { cause := .tileMissing, info := BitVec.ofNat 32 (quadTile e q) } := by
  simp only [drawQuad, tileFault_of_not_readable h]

/-- A quadrant whose tile can be read raises PAL_MISSING at its first pixel that is not paintable. -/
theorem drawQuad_palMissing {s : State} {e : ParsedEntry} {q : Bool × Bool} {r c : Nat} (m : Memory Paint)
    (h : TileReadable s (quadTile e q)) (hr : r < 8) (hc : c < 8)
    (hp : ¬ PixelPaintable s e.pal (quadTile e q) r c)
    (before : ∀ r' < 8, ∀ c' < 8, (r' < r ∨ r' = r ∧ c' < c) → PixelPaintable s e.pal (quadTile e q) r' c') :
    drawQuad s e m q =
      .error (palFault (16 * e.pal.toNat + (decodeTile (s.tileBytes (quadTile e q)) r c).toNat)) := by
  obtain ⟨as, bs, hsplit, has⟩ := tilePixels_split hr hc
  simp only [drawQuad, tileFault_of_readable h]
  rw [hsplit]
  refine runLoop_first_error m (fun p hpm cv => ?_) (fun cv => drawPixel_error _ cv hp)
  obtain ⟨h1, h2, h3⟩ := has p hpm
  exact ⟨_, drawPixel_ok _ cv (before _ h1 _ h2 h3)⟩

/-- What drawing a quadrant can do: paint positions of the canvas, or raise TILE_MISSING or PAL_MISSING. -/
theorem drawQuad_keeps_wf {s : State} {e : ParsedEntry} {q : Bool × Bool} {m m' : Memory Paint} (he : e.wf)
    (hm : canvasWf m) (h : drawQuad s e m q = .ok m') : canvasWf m' := by
  simp only [drawQuad] at h
  split at h
  · exact absurd h (by simp)
  · refine runLoop_keeps canvasWf (fun p hp cv cv' hcv hstep => ?_) hm h
    obtain ⟨hr, hc⟩ := (mem_tilePixels p.1 p.2).mp hp
    have h7r := flipped_lt e.vf hr
    have h7c := flipped_lt e.hf hc
    have b1 := Bool.toNat_le (q.1 ^^ e.hf)
    have b2 := Bool.toNat_le (q.2 ^^ e.vf)
    obtain ⟨h1, h2, h3, h4⟩ := he
    rcases drawPixel_cases s e (quadOrigin e q) (decodeTile (s.tileBytes (quadTile e q))) cv p with hd | ⟨pt, hd⟩ | ⟨a, hd⟩
    · rw [hd] at hstep; cases hstep; exact hcv
    · rw [hd] at hstep; cases hstep
      refine canvasWrite_wf hcv ?_
      simp only [InCanvas, quadOrigin]
      split <;> simp only <;> omega
    · rw [hd] at hstep; exact absurd hstep (by simp)

/-- The faults of a quadrant. -/
theorem drawQuad_error_cause {s : State} {e : ParsedEntry} {q : Bool × Bool} {m : Memory Paint} {f : FaultRecord}
    (h : drawQuad s e m q = .error f) : f.cause = .tileMissing ∨ f.cause = .palMissing := by
  simp only [drawQuad] at h
  split at h
  · rename_i g hg
    cases h
    left
    simp only [State.tileFault] at hg
    split at hg
    · cases hg; rfl
    · exact absurd hg (by simp)
  · refine runLoop_error (fun f => f.cause = .tileMissing ∨ f.cause = .palMissing) (fun p _ cv f' hf => ?_) h
    rcases drawPixel_cases s e (quadOrigin e q) (decodeTile (s.tileBytes (quadTile e q))) cv p with hd | ⟨pt, hd⟩ | ⟨a, hd⟩ <;>
      rw [hd] at hf
    · exact absurd hf (by simp)
    · exact absurd hf (by simp)
    · cases hf; exact .inr rfl

/-! ### Drawing an entry -/

/-- Drawing an entry keeps the canvas form (41_compositor R138). -/
theorem drawEntry_keeps_wf {s : State} {e : ParsedEntry} {m m' : Memory Paint} (he : e.wf) (hm : canvasWf m)
    (h : drawEntry s e m = .ok m') : canvasWf m' :=
  runLoop_keeps canvasWf (fun _ _ _ _ hc hd => drawQuad_keeps_wf he hc hd) hm h

/-- The faults of an entry. -/
theorem drawEntry_error_cause {s : State} {e : ParsedEntry} {m : Memory Paint} {f : FaultRecord}
    (h : drawEntry s e m = .error f) : f.cause = .tileMissing ∨ f.cause = .palMissing :=
  runLoop_error (fun f => f.cause = .tileMissing ∨ f.cause = .palMissing) (fun _ _ _ _ hd => drawQuad_error_cause hd) h

/-- Composing slots keeps the canvas form. -/
theorem drawSlot_keeps_wf {s : State} {k : Nat} {m m' : Memory Paint} (hm : canvasWf m)
    (h : drawSlot s m k = .ok m') : canvasWf m' := by
  simp only [drawSlot] at h
  split at h
  · exact absurd h (by simp)
  · exact drawEntry_keeps_wf (parseEntry_wf _) hm h

/-- The faults of a slot of a composition. -/
theorem drawSlot_error_cause {s : State} {k : Nat} {m : Memory Paint} {f : FaultRecord}
    (h : drawSlot s m k = .error f) : f.cause = .tileMissing ∨ f.cause = .palMissing ∨ f.cause = .uninit := by
  simp only [drawSlot] at h
  split at h
  · rename_i g hg; cases h; exact .inr (.inr (entryFault_cause hg))
  · rcases drawEntry_error_cause h with h | h <;> simp [h]

/-- The causes a composition can raise once its range check has passed. -/
theorem runLoop_drawSlot_error_cause {s : State} {slots : List Nat} {m : Memory Paint} {f : FaultRecord}
    (h : runLoop (drawSlot s) slots m = .error f) : f.cause = .tileMissing ∨ f.cause = .palMissing ∨ f.cause = .uninit :=
  runLoop_error (fun f => f.cause = .tileMissing ∨ f.cause = .palMissing ∨ f.cause = .uninit)
    (fun _ _ _ _ hd => drawSlot_error_cause hd) h

/-! ### The bounding box -/

theorem foldl_min_spec {α : Type} (f : α → Int) (l : List α) (a : Int) :
    l.foldl (fun b p => min b (f p)) a ≤ a ∧ (∀ p ∈ l, l.foldl (fun b p => min b (f p)) a ≤ f p) ∧
      (l.foldl (fun b p => min b (f p)) a = a ∨ ∃ p ∈ l, l.foldl (fun b p => min b (f p)) a = f p) := by
  induction l generalizing a with
  | nil => simp
  | cons q l ih =>
    obtain ⟨h1, h2, h3⟩ := ih (min a (f q))
    simp only [List.foldl_cons, List.mem_cons, forall_eq_or_imp]
    refine ⟨by omega, ⟨by omega, h2⟩, ?_⟩
    rcases h3 with h3 | ⟨p, hp, h3⟩
    · rcases (by omega : min a (f q) = a ∨ min a (f q) = f q) with h | h
      · left; omega
      · right; exact ⟨q, .inl rfl, by omega⟩
    · right; exact ⟨p, .inr hp, h3⟩

theorem foldl_max_spec {α : Type} (f : α → Int) (l : List α) (a : Int) :
    a ≤ l.foldl (fun b p => max b (f p)) a ∧ (∀ p ∈ l, f p ≤ l.foldl (fun b p => max b (f p)) a) ∧
      (l.foldl (fun b p => max b (f p)) a = a ∨ ∃ p ∈ l, l.foldl (fun b p => max b (f p)) a = f p) := by
  induction l generalizing a with
  | nil => simp
  | cons q l ih =>
    obtain ⟨h1, h2, h3⟩ := ih (max a (f q))
    simp only [List.foldl_cons, List.mem_cons, forall_eq_or_imp]
    refine ⟨by omega, ⟨by omega, h2⟩, ?_⟩
    rcases h3 with h3 | ⟨p, hp, h3⟩
    · rcases (by omega : max a (f q) = a ∨ max a (f q) = f q) with h | h
      · left; omega
      · right; exact ⟨q, .inl rfl, by omega⟩
    · right; exact ⟨p, .inr hp, h3⟩

/-- The box holds the origin and every painted position, and each bound is one of them (41_compositor R139). -/
theorem minX_spec (m : Memory Paint) :
    minX m ≤ 0 ∧ (∀ p ∈ m, minX m ≤ keyX p.1) ∧ (minX m = 0 ∨ ∃ p ∈ m, minX m = keyX p.1) :=
  foldl_min_spec (fun p : Nat × Paint => keyX p.1) m 0

theorem maxX_spec (m : Memory Paint) :
    0 ≤ maxX m ∧ (∀ p ∈ m, keyX p.1 ≤ maxX m) ∧ (maxX m = 0 ∨ ∃ p ∈ m, maxX m = keyX p.1) :=
  foldl_max_spec (fun p : Nat × Paint => keyX p.1) m 0

theorem minY_spec (m : Memory Paint) :
    minY m ≤ 0 ∧ (∀ p ∈ m, minY m ≤ keyY p.1) ∧ (minY m = 0 ∨ ∃ p ∈ m, minY m = keyY p.1) :=
  foldl_min_spec (fun p : Nat × Paint => keyY p.1) m 0

theorem maxY_spec (m : Memory Paint) :
    0 ≤ maxY m ∧ (∀ p ∈ m, keyY p.1 ≤ maxY m) ∧ (maxY m = 0 ∨ ∃ p ∈ m, maxY m = keyY p.1) :=
  foldl_max_spec (fun p : Nat × Paint => keyY p.1) m 0

/-- The corner of the box comes before every painted key. -/
theorem corner_le_key (m : Memory Paint) (p : Nat × Paint) (hp : p ∈ m) : canvasKey (minX m) (minY m) ≤ p.1 := by
  have h1 := (minX_spec m).2.1 p hp
  have h2 := (minY_spec m).2.1 p hp
  rw [← canvasKey_key p.1]
  simp only [canvasKey]
  omega

/-- The raster's ranges, for a canvas in canonical form (41_compositor R140). -/
theorem rasterOf_wf {m : Memory Paint} (h : canvasWf m) : (rasterOf m).wf := by
  have key : ∀ p ∈ m, InCanvas (keyX p.1) (keyY p.1) := fun p hp => inCanvas_key (h.2 p hp)
  obtain ⟨x1, x2, x3⟩ := minX_spec m
  obtain ⟨u1, u2, u3⟩ := maxX_spec m
  obtain ⟨y1, y2, y3⟩ := minY_spec m
  obtain ⟨v1, v2, v3⟩ := maxY_spec m
  have hx : -256 ≤ minX m := by
    rcases x3 with h3 | ⟨p, hp, h3⟩
    · omega
    · have := key p hp; omega
  have hu : maxX m ≤ 270 := by
    rcases u3 with h3 | ⟨p, hp, h3⟩
    · omega
    · have := key p hp; omega
  have hy : -128 ≤ minY m := by
    rcases y3 with h3 | ⟨p, hp, h3⟩
    · omega
    · have := key p hp; omega
  have hv : maxY m ≤ 142 := by
    rcases v3 with h3 | ⟨p, hp, h3⟩
    · omega
    · have := key p hp; omega
  refine ⟨by simp only [rasterOf]; omega, by simp only [rasterOf]; omega,
    map_sub_wf m _ (corner_le_key m) h.1, ?_⟩
  intro q hq
  obtain ⟨p, hp, rfl⟩ := List.mem_map.mp hq
  have h1 := x2 p hp
  have h2 := u2 p hp
  have h3 := y2 p hp
  have h4 := v2 p hp
  have h5 := corner_le_key m p hp
  simp only [rasterOf, keyX, keyY, canvasKey] at *
  omega

/-- A cell of the raster is the canvas cell at its place in the box (41_compositor R140). -/
theorem cellAt_rasterOf (m : Memory Paint) (hx : -256 ≤ minX m) (hy : -128 ≤ minY m) (j i : Nat) :
    (rasterOf m).cellAt j i = m.read (canvasKey (minX m + i) (minY m + j)) := by
  simp only [Raster.cellAt, rasterOf]
  rw [read_map_sub m _ _ (corner_le_key m)]
  congr 1
  simp only [rbufKey, canvasKey]
  omega

end Sys2Proof.Machine
end

