-- ==== Sys2Proof/Laws/Exec.lean ====
section
/-! SUPPORT. What each command can do: one lemma per meaning, to be cited instead of unfolding it. -/

namespace Sys2Proof.Machine

theorem execTdec_cases {s t : State} (h : execTdec s = .next t) :
    (∃ f, s.rawFault = some f ∧ t = s.raise f) ∨
      (s.rawFault = none ∧ t = s.setPix (s.pix.writeRange 0 64 (fun k => decodeTile s.rawTile (k / 8) (k % 8)))) := by
  rcases checked_cases h with h | ⟨h1, h2⟩
  · exact .inl h
  · cases h2; exact .inr ⟨h1, rfl⟩

theorem execTenc_cases {s t : State} (h : execTenc s = .next t) :
    (∃ f, s.pixFault = some f ∧ t = s.raise f) ∨
      (s.pixFault = none ∧ t = s.setRaw (s.raw.writeRange 0 32 (encodeTile s.pixGrid))) := by
  rcases checked_cases h with h | ⟨h1, h2⟩
  · exact .inl h
  · cases h2; exact .inr ⟨h1, rfl⟩

theorem execTld_cases {s t : State} {n : Nat} (h : execTld n s = .next t) :
    (∃ f, (s.tileSlotFault n).or (s.tileFault n) = some f ∧ t = s.raise f) ∨
      (s.tileSlotFault n = none ∧ s.tileFault n = none ∧ t = s.setRaw (s.raw.writeRange 0 32 (s.tileBytes n))) := by
  rcases checked_cases h with h | ⟨h1, h2⟩
  · exact .inl h
  · cases h2; rw [Option.or_eq_none_iff] at h1; exact .inr ⟨h1.1, h1.2, rfl⟩

theorem execTst_cases {s t : State} {n : Nat} (h : execTst n s = .next t) :
    (∃ f, (s.tileSlotFault n).or s.rawFault = some f ∧ t = s.raise f) ∨
      (s.tileSlotFault n = none ∧ s.rawFault = none ∧
        t = s.setTile (s.tile.writeRange (tileKey n 0) 32 s.rawTile)) := by
  rcases checked_cases h with h | ⟨h1, h2⟩
  · exact .inl h
  · cases h2; rw [Option.or_eq_none_iff] at h1; exact .inr ⟨h1.1, h1.2, rfl⟩

theorem execEprs_cases {s t : State} {e : Nat} (h : execEprs e s = .next t) :
    (∃ f, (s.entrySlotFault e).or (s.entryFault e) = some f ∧ t = s.raise f) ∨
      (s.entrySlotFault e = none ∧ s.entryFault e = none ∧ t = s.setEnt (parseEntry (s.entryBytes e))) := by
  rcases checked_cases h with h | ⟨h1, h2⟩
  · exact .inl h
  · cases h2; rw [Option.or_eq_none_iff] at h1; exact .inr ⟨h1.1, h1.2, rfl⟩

theorem execCclr_cases {s t : State} (h : execCclr s = .next t) : t = s.setCanvas [] := by
  cases h; rfl

theorem execDraw_cases {s t : State} {e : Nat} (h : execDraw e s = .next t) :
    (∃ f, (s.entrySlotFault e).or (s.entryFault e) = some f ∧ t = s.raise f) ∨
      (∃ m, drawEntry s (parseEntry (s.entryBytes e)) s.canvas = .ok m ∧ t = s.setCanvas m) ∨
      (∃ f, drawEntry s (parseEntry (s.entryBytes e)) s.canvas = .error f ∧ t = s.loseCanvas.raise f) := by
  rcases checked_cases h with h | ⟨-, h2⟩
  · exact .inl h
  · split at h2 <;> rename_i hd <;> cases h2
    · exact .inr (.inl ⟨_, hd, rfl⟩)
    · exact .inr (.inr ⟨_, hd, raiseDrawing_of_draw (drawEntry_error_cause hd)⟩)

theorem execRast_cases {s t : State} (h : execRast s = .next t) : t = s.setRaster (rasterOf s.canvas) := by
  cases h; rfl

theorem execComp_cases {s t : State} {n : Nat} (h : execComp n s = .next t) :
    (∃ f, s.countFault n = some f ∧ t = s.raise f) ∨
      (∃ m, runLoop (drawSlot s) (List.range n) [] = .ok m ∧ t = (s.setCanvas m).setRaster (rasterOf m)) ∨
      (∃ f, runLoop (drawSlot s) (List.range n) [] = .error f ∧
        ((f.cause = .uninit ∧ t = s.raise f) ∨
          ((f.cause = .tileMissing ∨ f.cause = .palMissing) ∧ t = s.loseCanvas.raise f))) := by
  rcases checked_cases h with h | ⟨-, h2⟩
  · exact .inl h
  · split at h2 <;> rename_i hd <;> cases h2
    · exact .inr (.inl ⟨_, hd, rfl⟩)
    · refine .inr (.inr ⟨_, hd, ?_⟩)
      rcases runLoop_drawSlot_error_cause hd with hc | hc | hc
      · exact .inr ⟨.inl hc, raiseDrawing_of_draw (.inl hc)⟩
      · exact .inr ⟨.inr hc, raiseDrawing_of_draw (.inr hc)⟩
      · exact .inl ⟨hc, raiseDrawing_of_uninit hc⟩

theorem execCv15_cases {s t : State} (h : execCv15 s = .next t) :
    (∃ f, s.c15Fault = some f ∧ t = s.raise f) ∨ (s.c15Fault = none ∧ t = s.setRgb (color15ToRgb s.c15)) := by
  rcases checked_cases h with h | ⟨h1, h2⟩
  · exact .inl h
  · cases h2; exact .inr ⟨h1, rfl⟩

theorem execCv24_cases {s t : State} (h : execCv24 s = .next t) :
    (∃ f, s.rgbFault = some f ∧ t = s.raise f) ∨
      (s.rgbFault = none ∧ t = s.setC15 (rgbTo15 s.cfg.rgbTo15 s.rgb)) := by
  rcases checked_cases h with h | ⟨h1, h2⟩
  · exact .inl h
  · cases h2; exact .inr ⟨h1, rfl⟩

/-- A command whose checks answer a next state does so always: no command of the PTC stops. -/
theorem checked_next {s : State} {found : Option FaultRecord} {go : Host.Outcome State Fault Refusal}
    (h : ∃ t, go = .next t) : ∃ t, s.checked found go = .next t := by
  cases found with
  | none => exact h
  | some f => exact ⟨_, rfl⟩

/-- Every command answers a next state in every state. -/
theorem exec_next (i : Instr) (s : State) : ∃ t, exec i s = .next t := by
  cases i with
  | tdec => exact checked_next ⟨_, rfl⟩
  | tenc => exact checked_next ⟨_, rfl⟩
  | tld t => exact checked_next ⟨_, rfl⟩
  | tst t => exact checked_next ⟨_, rfl⟩
  | eprs e => exact checked_next ⟨_, rfl⟩
  | cclr => exact ⟨_, rfl⟩
  | draw e => exact checked_next (by split <;> exact ⟨_, rfl⟩)
  | rast => exact ⟨_, rfl⟩
  | cv15 => exact checked_next ⟨_, rfl⟩
  | cv24 => exact checked_next ⟨_, rfl⟩
  | comp n => exact checked_next (by split <;> exact ⟨_, rfl⟩)

end Sys2Proof.Machine
end

