-- ==== Sys2Proof/Laws/PerInstr.lean ====
section
/-! SUPPORT. Family EncodedFields: the three fields of a well-formed command's word are its opcode, 0 and its operand
(30_encoding R80, R82), constructor by constructor. -/

namespace Sys2Proof.Laws.EncodedFields

/-- OP, RSV and A of the command's word. -/
def Statement (i : Instr) : Prop :=
  WellFormed i = true → fieldOP (encode i) = i.opcode ∧ fieldRSV (encode i) = 0 ∧ fieldA (encode i) = i.operand

theorem of_toNat (i : Instr) : Statement i := by
  intro h
  have h1 := operand_lt h
  have h2 := opcode_lt i
  have h3 := toNat_encode h
  rw [fieldOP_eq, fieldRSV_eq, fieldA_eq]
  omega

theorem tdec : Statement .tdec := of_toNat _
theorem tenc : Statement .tenc := of_toNat _
theorem tld (t : Nat) : Statement (.tld t) := of_toNat _
theorem tst (t : Nat) : Statement (.tst t) := of_toNat _
theorem eprs (e : Nat) : Statement (.eprs e) := of_toNat _
theorem cclr : Statement .cclr := of_toNat _
theorem draw (e : Nat) : Statement (.draw e) := of_toNat _
theorem rast : Statement .rast := of_toNat _
theorem cv15 : Statement .cv15 := of_toNat _
theorem cv24 : Statement .cv24 := of_toNat _
theorem comp (n : Nat) : Statement (.comp n) := of_toNat _

end Sys2Proof.Laws.EncodedFields
end

