-- ==== Sys2Proof/Laws/Port.lean ====
section
/-! SUPPORT. The rows of the port map, and what one act of the host does. -/

namespace Sys2Proof.Machine

theorem registerAt_of_le {addr : Nat} (h : 10 ≤ addr) : registerAt addr = none := by
  unfold registerAt
  split <;> first | omega | rfl

/-- What the map answers is a listed element at its address. -/
theorem portOf_some {c : Config} {addr : Nat} {p : Port} (h : portOf c addr = some p) :
    PortListed c p ∧ addr = portAddress p := by
  simp only [portOf, Option.or_eq_some_iff] at h
  rcases h with h | ⟨-, h | ⟨-, h | ⟨-, h | ⟨-, h | ⟨-, h | ⟨-, h⟩⟩⟩⟩⟩⟩
  · unfold registerAt at h
    split at h <;> first | (injection h with h; subst h; exact ⟨trivial, rfl⟩) | cases h
  all_goals
    first
      | unfold rawAt at h | unfold pixAt at h | unfold palAt at h | unfold entryAt at h | unfold tileAt at h
      | unfold rbufAt at h
    split at h
    · injection h with h; subst h; simp only [PortListed, portAddress]; omega
    · cases h

theorem portOf_raw {c : Config} {addr i : Nat} (hi : i < 32) (h : addr = 0x000100 + i) :
    portOf c addr = some (.raw i) := by
  rw [portOf, registerAt_of_le (by omega), rawAt, if_pos (by omega)]
  simp only [Option.none_or, Option.some_or, Option.some.injEq, Port.raw.injEq]; omega

theorem portOf_pix {c : Config} {addr k : Nat} (hk : k < 64) (h : addr = 0x000200 + k) :
    portOf c addr = some (.pix k) := by
  rw [portOf, registerAt_of_le (by omega), rawAt, if_neg (by omega), pixAt, if_pos (by omega)]
  simp only [Option.none_or, Option.some_or, Option.some.injEq, Port.pix.injEq]; omega

theorem portOf_pal {c : Config} {addr a : Nat} (ha : a < 128) (h : addr = 0x000400 + a) :
    portOf c addr = some (.pal a) := by
  rw [portOf, registerAt_of_le (by omega), rawAt, if_neg (by omega), pixAt, if_neg (by omega), palAt, if_pos (by omega)]
  simp only [Option.none_or, Option.some_or, Option.some.injEq, Port.pal.injEq]; omega

theorem portOf_entry {c : Config} {addr e i : Nat} (he : e < c.nEntries) (hi : i < 5)
    (h : addr = 0x010000 + 8 * e + i) : portOf c addr = some (.entry e i) := by
  rw [portOf, registerAt_of_le (by omega), rawAt, if_neg (by omega), pixAt, if_neg (by omega), palAt, if_neg (by omega),
    entryAt, if_pos (by omega)]
  simp only [Option.none_or, Option.some_or, Option.some.injEq, Port.entry.injEq]; omega

theorem portOf_tile {c : Config} {addr t i : Nat} (hc : c.wf) (ht : t < c.nTiles) (hi : i < 32)
    (h : addr = 0x100000 + 32 * t + i) : portOf c addr = some (.tile t i) := by
  obtain ⟨-, -, -, h4⟩ := hc
  rw [portOf, registerAt_of_le (by omega), rawAt, if_neg (by omega), pixAt, if_neg (by omega), palAt, if_neg (by omega),
    entryAt, if_neg (by omega), tileAt, if_pos (by omega)]
  simp only [Option.none_or, Option.some_or, Option.some.injEq, Port.tile.injEq]; omega

theorem portOf_rbuf {c : Config} {addr j i : Nat} (hc : c.wf) (hj : j < 271) (hi : i < 527)
    (h : addr = 0x400000 + 0x400 * j + i) : portOf c addr = some (.rbuf j i) := by
  obtain ⟨-, h2, -, h4⟩ := hc
  rw [portOf, registerAt_of_le (by omega), rawAt, if_neg (by omega), pixAt, if_neg (by omega), palAt, if_neg (by omega),
    entryAt, if_neg (by omega), tileAt, if_neg (by omega), rbufAt, if_pos (by omega)]
  simp only [Option.none_or, Option.some.injEq, Port.rbuf.injEq]; omega

/-- A step with nothing pending. -/
theorem step_idle {s : State} (h : s.host.pending = []) : step s = .next s := by
  simp only [step, nextHostOp, h]

/-- A step performs the first pending act on the state that has the others pending. -/
theorem step_pending {s : State} {op : HostOp} {rest : List HostOp} (h : s.host.pending = op :: rest) :
    step s = hostOp (afterAccess s rest) op := by
  simp only [step, nextHostOp, h]
  rfl

theorem hostOp_write {s : State} {addr : Nat} {w : Word} {p : Port} (h : portOf s.cfg addr = some p) (hp : p ≠ .cmd) :
    hostOp s (.write addr w) = .next (hostWrite s w p) := by
  simp only [hostOp, h]

theorem hostOp_write_cmd (s : State) (w : Word) : hostOp s (.write 0x000000 w) = cmdWrite s w := rfl

theorem hostOp_read {s : State} {addr : Nat} {p : Port} (h : portOf s.cfg addr = some p) :
    hostOp s (.read addr) = .next (hostRead s p) := by
  simp only [hostOp, h]

/-- What a step that answers a next state did. -/
theorem step_cases {s t : State} (h : step s = .next t) :
    (s.host.pending = [] ∧ t = s) ∨
      ∃ op rest, s.host.pending = op :: rest ∧
        ((op = .reset ∧ t = (afterAccess s rest).hostReset) ∨
          (∃ addr p, op = .read addr ∧ portOf s.cfg addr = some p ∧ t = hostRead (afterAccess s rest) p) ∨
          (∃ addr w p, op = .write addr w ∧ portOf s.cfg addr = some p ∧ p ≠ .cmd ∧
            t = hostWrite (afterAccess s rest) w p) ∨
          (∃ w, op = .write 0x000000 w ∧ s.status.fault = true ∧ t = afterAccess s rest) ∨
          (∃ w e, op = .write 0x000000 w ∧ s.status.fault = false ∧ decode w = .error e ∧
            t = (afterAccess s rest).raise (illegalCmd w)) ∨
          (∃ w i, op = .write 0x000000 w ∧ s.status.fault = false ∧ decode w = .ok i ∧
            exec i (afterAccess s rest) = .next t)) := by
  cases hp : s.host.pending with
  | nil => rw [step_idle hp] at h; cases h; exact .inl ⟨rfl, rfl⟩
  | cons op rest =>
    refine .inr ⟨op, rest, rfl, ?_⟩
    rw [step_pending hp] at h
    cases op with
    | reset => cases h; exact .inl ⟨rfl, rfl⟩
    | read addr =>
      simp only [hostOp] at h
      split at h <;> rename_i hq
      · cases h; exact .inr (.inl ⟨addr, _, rfl, hq, rfl⟩)
      · cases h
    | write addr w =>
      simp only [hostOp] at h
      split at h
      · rename_i hq
        obtain rfl : addr = 0x000000 := (portOf_some hq).2
        right; right; right
        simp only [cmdWrite] at h
        split at h
        · rename_i hf; cases h; exact .inl ⟨w, rfl, hf, rfl⟩
        · rename_i hf
          have hf' : s.status.fault = false := Bool.eq_false_iff.mpr hf
          split at h <;> rename_i hd
          · exact .inr (.inr ⟨w, _, rfl, hf', hd, h⟩)
          · cases h; exact .inr (.inl ⟨w, _, rfl, hf', hd, rfl⟩)
      · rename_i p hne hq
        cases h
        exact .inr (.inr (.inl ⟨addr, w, p, rfl, hq, fun hc => hne hc, rfl⟩))
      · cases h

/-- A host read changes the host's side and the count of free values, and nothing else. -/
theorem hostRead_frame (s : State) (p : Port) :
    ∃ w n, hostRead s p = { s with host := { s.host with result := some w }, draws := n } ∧
      (n = s.draws ∨ n = s.draws + 1) := by
  have E : ∀ {w : Nat} (v : Option (BitVec w)), ∃ x n, s.readElement v =
      { s with host := { s.host with result := some x }, draws := n } ∧ (n = s.draws ∨ n = s.draws + 1) := by
    intro w v
    cases v with
    | none => exact ⟨_, _, rfl, .inr rfl⟩
    | some b => exact ⟨_, _, rfl, .inl rfl⟩
  have A : ∀ x, ∃ w n, s.readAs x = { s with host := { s.host with result := some w }, draws := n } ∧
      (n = s.draws ∨ n = s.draws + 1) := fun x => ⟨_, _, rfl, .inl rfl⟩
  have F : ∀ x, ∃ w n, s.readFree x = { s with host := { s.host with result := some w }, draws := n } ∧
      (n = s.draws ∨ n = s.draws + 1) := fun x => ⟨_, _, rfl, .inr rfl⟩
  cases p with
  | cmd => exact A _
  | status => exact A _
  | finfo => exact A _
  | ctrl => exact A _
  | c15 => exact E _
  | rgb => exact E _
  | ent0 => simp only [hostRead]; split; exacts [A _, F _]
  | ent1 => simp only [hostRead]; split; exacts [A _, F _]
  | rsize => simp only [hostRead]; split; exacts [A _, F _]
  | rorg => simp only [hostRead]; split; exacts [A _, F _]
  | raw i => exact E _
  | pix k => exact E _
  | pal a => exact E _
  | entry e i => exact E _
  | tile t i => exact E _
  | rbuf j i => simp only [hostRead]; split; exacts [A _, F _]

end Sys2Proof.Machine
end

