-- ==== Sys2Proof/Laws/Wf.lean ====
section
/-! SUPPORT. The invariant `State.wf`, one lemma per update: what an update needs to keep it. -/

namespace Sys2Proof.Machine

theorem below_write {α : Type} {m : Memory α} {a n : Nat} {v : α} (h : m.below n) (ha : a < n) :
    (m.write a v).below n := by
  intro p hp
  rcases mem_write _ _ _ _ hp with h' | h'
  · omega
  · exact h p h'

theorem below_writeRange {α : Type} {m : Memory α} {base k n : Nat} {f : Nat → α} (h : m.below n) (hb : base + k ≤ n) :
    (m.writeRange base k f).below n := by
  intro p hp
  rcases mem_writeRange _ _ _ _ _ hp with h' | h'
  · omega
  · exact h p h'

theorem canvasWf_nil : canvasWf [] := ⟨nil_wf, fun _ h => by cases h⟩

theorem setTile_wf {s : State} {m : Memory Byte} (h : s.wf) (hm : m.wf) (hb : m.below (32 * s.cfg.nTiles)) :
    (s.setTile m).wf := by
  obtain ⟨a, ⟨-, b2, b3, b4, b5⟩, c, d, e, f⟩ := h
  exact ⟨a, ⟨⟨hm, hb⟩, b2, b3, b4, b5⟩, c, d, e, f⟩

theorem setPal_wf {s : State} {m : Memory Color15} (h : s.wf) (hm : m.wf) (hb : m.below 128) : (s.setPal m).wf := by
  obtain ⟨a, ⟨b1, -, b3, b4, b5⟩, c, d, e, f⟩ := h
  exact ⟨a, ⟨b1, ⟨hm, hb⟩, b3, b4, b5⟩, c, d, e, f⟩

theorem setEntry_wf {s : State} {m : Memory Byte} (h : s.wf) (hm : m.wf)
    (hb : ∀ p ∈ m, p.1 < 8 * s.cfg.nEntries ∧ p.1 % 8 < 5) : (s.setEntry m).wf := by
  obtain ⟨a, ⟨b1, b2, -, b4, b5⟩, c, d, e, f⟩ := h
  exact ⟨a, ⟨b1, b2, ⟨hm, hb⟩, b4, b5⟩, c, d, e, f⟩

theorem setRaw_wf {s : State} {m : Memory Byte} (h : s.wf) (hm : m.wf) (hb : m.below 32) : (s.setRaw m).wf := by
  obtain ⟨a, ⟨b1, b2, b3, -, b5⟩, c, d, e, f⟩ := h
  exact ⟨a, ⟨b1, b2, b3, ⟨hm, hb⟩, b5⟩, c, d, e, f⟩

theorem setPix_wf {s : State} {m : Memory Pixel} (h : s.wf) (hm : m.wf) (hb : m.below 64) : (s.setPix m).wf := by
  obtain ⟨a, ⟨b1, b2, b3, b4, -⟩, c, d, e, f⟩ := h
  exact ⟨a, ⟨b1, b2, b3, b4, ⟨hm, hb⟩⟩, c, d, e, f⟩

theorem setEnt_wf {s : State} {p : ParsedEntry} (h : s.wf) (hp : p.wf) : (s.setEnt p).wf := by
  obtain ⟨a, b, c, -, e, f⟩ := h
  exact ⟨a, b, c, hp, e, f⟩

theorem setCanvas_wf {s : State} {m : Memory Paint} (h : s.wf) (hm : canvasWf m) : (s.setCanvas m).wf := by
  obtain ⟨a, b, -, d, e, f⟩ := h
  exact ⟨a, b, hm, d, e, f⟩

theorem setRaster_wf {s : State} {r : Raster} (h : s.wf) (hr : r.wf) : (s.setRaster r).wf := by
  obtain ⟨a, b, c, d, e, -⟩ := h
  exact ⟨a, b, c, d, e, hr⟩

theorem loseCanvas_wf {s : State} (h : s.wf) : s.loseCanvas.wf := by
  obtain ⟨a, b, -, d, e, f⟩ := h
  exact ⟨a, b, canvasOfPositions_wf _, d, e, f⟩

theorem raise_wf {s : State} {r : FaultRecord} (h : s.wf) : (s.raise r).wf := by
  obtain ⟨a, b, c, d, -, f⟩ := h
  exact ⟨a, b, c, d, ⟨rfl, fun h => by cases h⟩, f⟩

theorem raiseDrawing_wf {s : State} {f : FaultRecord} (h : s.wf) : (s.raiseDrawing f).wf := by
  simp only [State.raiseDrawing]
  split
  all_goals first | exact raise_wf h | exact raise_wf (loseCanvas_wf h)

theorem reset_raster_wf : Raster.wf { rw := 1, rh := 1, orgX := 0, orgY := 0, rbuf := [] } :=
  ⟨by decide, by decide, nil_wf, fun _ h => by cases h⟩

theorem reset_ent_wf :
    ParsedEntry.wf { x := 0, y := 0, big := false, tile := 0, pal := 0, hf := false, vf := false, prio := false } := by
  decide

/-- Reset, whatever state it is asserted in (70_reset R240). -/
theorem resetWith_wf {c : Config} (h : c.wf) : (State.resetWith c).wf :=
  ⟨h, ⟨⟨nil_wf, fun _ h => by cases h⟩, ⟨nil_wf, fun _ h => by cases h⟩, ⟨nil_wf, fun _ h => by cases h⟩,
    ⟨nil_wf, fun _ h => by cases h⟩, ⟨nil_wf, fun _ h => by cases h⟩⟩, canvasWf_nil, reset_ent_wf, ⟨rfl, fun _ => rfl⟩,
    reset_raster_wf⟩

end Sys2Proof.Machine
end

