-- ==== Sys2Proof/Laws/Words.lean ====
section
/-! SUPPORT. The host words as numbers: a word laid out field by field is the sum of its fields' weights. -/

namespace Sys2Proof.Machine

/-- Two fields side by side as a number. -/
theorem toNat_append_sum {m n : Nat} (x : BitVec m) (y : BitVec n) :
    (x ++ y).toNat = 2 ^ n * x.toNat + y.toNat := by
  rw [BitVec.toNat_append, Nat.shiftLeft_eq, Nat.mul_comm]
  exact (Nat.two_pow_add_eq_or_of_lt y.isLt x.toNat).symm

theorem toNat_rgbWord (c : Rgb) : (rgbWord c).toNat = 65536 * c.r.toNat + 256 * c.g.toNat + c.b.toNat := by
  simp only [rgbWord, toNat_append_sum, BitVec.toNat_ofNat]; omega

theorem toNat_cellWord_rgb (c : Rgb) :
    (cellWord (some (.rgb c))).toNat = 0x80000000 + 65536 * c.r.toNat + 256 * c.g.toNat + c.b.toNat := by
  simp only [cellWord, toNat_append_sum, BitVec.toNat_ofNat]; omega

theorem toNat_cellWord_idx (i : BitVec 7) : (cellWord (some (.idx i))).toNat = 0xC0000000 + i.toNat := by
  simp only [cellWord, toNat_append_sum, BitVec.toNat_ofNat]; omega

theorem toNat_ent0Word (e : ParsedEntry) :
    (ent0Word e).toNat = (e.x % 65536).toNat + 65536 * (e.y % 65536).toNat := by
  simp only [ent0Word, toNat_append_sum, BitVec.toNat_ofInt]; omega

theorem toNat_ent1Word (e : ParsedEntry) (v : Bool) :
    (ent1Word e v).toNat = e.tile.toNat + 256 * e.pal.toNat + 65536 * e.big.toNat + 131072 * e.hf.toNat +
      262144 * e.vf.toNat + 524288 * e.prio.toNat + 2147483648 * v.toNat := by
  simp only [ent1Word, toNat_append_sum, BitVec.toNat_ofNat, BitVec.toNat_ofBool]; omega

theorem toNat_pairWord (lo hi : Nat) : (pairWord lo hi).toNat = lo % 65536 + 65536 * (hi % 65536) := by
  simp only [pairWord, toNat_append_sum, BitVec.toNat_ofNat]; omega

theorem toNat_palWordOfBytes (first second : Byte) :
    (palWordOfBytes first second).toNat = first.toNat + 256 * second.toNat := by
  simp only [palWordOfBytes, toNat_append_sum, BitVec.toNat_ofNat]; omega

theorem toNat_statusWord (st : Status) :
    st.word.toNat = st.fault.toNat + 2 * st.rvalid.toNat + 256 * st.causeCode.toNat := by
  simp only [Status.word, toNat_append_sum, BitVec.toNat_ofNat, BitVec.toNat_ofBool]; omega

end Sys2Proof.Machine
end

