-- ==== Sys2Proof/Tests/Slice0.lean ====
section
/-! SUPPORT. Tests: ill-formed terms refused, one word per command written out from 30_encoding R80 and R82, one-step vectors
of spec/95_test_vectors.md (its ids in the docstrings), and for every statement with hypotheses a state that meets them. -/

namespace Sys2Proof.Tests

open Sys2Proof Sys2Proof.Machine

set_option Elab.async false

/-! ### Small states -/

/-- The bytes `l`, then zeros. -/
def bytes (l : List Byte) : Nat → Byte := fun i => l.getD i 0

def withRaw (l : List Byte) (s : State) : State := s.setRaw (Memory.writeRange [] 0 32 (bytes l))

def withPix (f : Nat → Pixel) (s : State) : State := s.setPix (Memory.writeRange [] 0 64 f)

def withTile (t : Nat) (l : List Byte) (s : State) : State := s.setTile (s.tile.writeRange (tileKey t 0) 32 (bytes l))

def withEntry (e : Nat) (l : List Byte) (s : State) : State := s.setEntry (s.entry.writeRange (entryKey e 0) 5 (bytes l))

def withPal (l : List (Nat × Color15)) (s : State) : State := s.setPal l

/-- The state a command answers (it always answers one: `exec_next`). -/
def after (i : Instr) (s : State) : State :=
  match exec i s with
  | .next t => t
  | .fault _ => s
  | .refused _ => s

theorem exec_after (i : Instr) (s : State) : exec i s = .next (after i s) := by
  obtain ⟨t, h⟩ := exec_next i s
  simp only [after, h]

/-- The state after the host's act `op` from `s`; `none` where the step does not answer a next state. -/
def stepped (op : HostOp) (s : State) : Option State :=
  match step (s.setPending [op]) with
  | .next t => some t
  | .fault _ => none
  | .refused _ => none

/-- STATUS and FINFO. -/
def record (s : State) : Word × Word := (s.status.word, s.finfo)

/-- Tile T5 of 95_test_vectors 2.5: every pixel 1. -/
def opaqueTile : List Byte := [0xFF, 0, 0xFF, 0, 0xFF, 0, 0xFF, 0, 0xFF, 0, 0xFF, 0, 0xFF, 0, 0xFF, 0]

/-- V-S2: one opaque small sprite at (10, 10), palette 1, indexed mode. -/
def spriteState : State :=
  withTile 5 opaqueTile (withEntry 0 [0x0A, 0x00, 0x0A, 0x05, 0x04] (State.reset.setMode .indexed))

/-- V-S10: a second entry over the first, its tile one pixel of value 2. -/
def overlapState : State := withTile 6 [0x00, 0x80] (withEntry 1 [0x0A, 0x00, 0x0A, 0x06, 0x08] spriteState)

/-- V-S6 to V-S9: the quadrant tiles and palette, direct mode, the entry's last byte `b4`. -/
def quadState (b4 : Byte) : State :=
  withTile 0x20 [0x01] <| withTile 0x21 [0x00, 0x01] <| withTile 0x30 [0x01, 0x01] <|
    withTile 0x31 (List.replicate 16 0 ++ [0x01]) <|
      withEntry 0 [0xFC, 0xC3, 0xFE, 0x20, b4] <|
        withPal [(1, 0x001F), (2, 0x03E0), (3, 0x7C00), (4, 0x7FFF)] State.reset

def tileBytesTD9 : List Byte :=
  [0x3C, 0x00, 0x42, 0x3C, 0x81, 0x7E, 0x81, 0x7E, 0x81, 0x7E, 0x81, 0x7E, 0x42, 0x3C, 0x3C, 0x00,
   0x00, 0x3C, 0x00, 0x00, 0x00, 0x00, 0x18, 0x18, 0x18, 0x00, 0x00, 0x00, 0x00, 0x00, 0x00, 0x00]

/-! ### WellFormed refuses an operand that the field A cannot hold (30_encoding R81) -/

theorem test_ill_formed_tld : WellFormed (.tld 65536) = false := by decide

theorem test_ill_formed_tst : WellFormed (.tst 65536) = false := by decide

theorem test_ill_formed_eprs : WellFormed (.eprs 65536) = false := by decide

theorem test_ill_formed_draw : WellFormed (.draw 65536) = false := by decide

theorem test_ill_formed_comp : WellFormed (.comp 65536) = false := by decide

theorem test_largest_operand_well_formed : WellFormed (.comp 65535) = true := by decide

/-! ### Words written out: A 31:16, RSV 15:8, OP 7:0 (30_encoding R80, R82) -/

theorem test_word_tdec : decodeTableWord 32 0b0000000000000000_00000000_00000001 = some .tdec := by decide

theorem test_word_tenc : decodeTableWord 32 0b0000000000000000_00000000_00000010 = some .tenc := by decide

theorem test_word_tld : decodeTableWord 32 0b0000001000000000_00000000_00000011 = some (.tld 512) := by decide

theorem test_word_tst : decodeTableWord 32 0b0000000000000101_00000000_00000100 = some (.tst 5) := by decide

theorem test_word_eprs : decodeTableWord 32 0b0000000000000011_00000000_00000101 = some (.eprs 3) := by decide

theorem test_word_cclr : decodeTableWord 32 0b0000000000000000_00000000_00000110 = some .cclr := by decide

theorem test_word_draw : decodeTableWord 32 0b1111111111111111_00000000_00000111 = some (.draw 65535) := by decide

theorem test_word_rast : decodeTableWord 32 0b0000000000000000_00000000_00001000 = some .rast := by decide

theorem test_word_cv15 : decodeTableWord 32 0b0000000000000000_00000000_00001001 = some .cv15 := by decide

theorem test_word_cv24 : decodeTableWord 32 0b0000000000000000_00000000_00001010 = some .cv24 := by decide

theorem test_word_comp : decodeTableWord 32 0b0000000100000001_00000000_00001011 = some (.comp 257) := by decide

/-- V-F1, V-F2, V-F3, V-F4, V-TD12, V-TM5: illegal words, by the part of 30_encoding R83 that says so. -/
theorem test_illegal_words :
    decode 0x00000000 = .error .illegalOpcode ∧ decode 0x0000000C = .error .illegalOpcode ∧
    decode 0x000000FF = .error .illegalOpcode ∧ decode 0x00000108 = .error .reservedNotZero ∧
    decode 0x02000103 = .error .reservedNotZero ∧ decode 0x00010001 = .error .operandNotZero ∧
    decode 0x00010009 = .error .operandNotZero := ⟨rfl, rfl, rfl, rfl, rfl, rfl, rfl⟩

/-- 30_encoding R85: `TST 5`, and a hexadecimal operand with a comment. -/
theorem test_assembler :
    assemble ['T', 'S', 'T', ' ', '5'] = some 0x00050004 ∧
    assemble ['C', 'O', 'M', 'P', ' ', '0', 'x', '1', 'A', 'b', ' ', ';', 'n'] = some 0x01AB000B ∧
    assemble ['T', 'L', 'D', ' ', '6', '5', '5', '3', '6'] = none := ⟨rfl, rfl, rfl⟩

/-! ### One step of each command (95_test_vectors.md) -/

/-- V-TD9. -/
theorem test_tdec_rows :
    (List.range 64).map (fun k => ((after .tdec (withRaw tileBytesTD9 State.reset)).pix.value k).toNat) =
      [0,0,9,9,9,9,0,0, 0,1,2,2,2,2,1,0, 1,2,2,2,2,2,2,1, 1,2,2,14,14,2,2,1,
       1,2,2,6,6,2,2,1, 1,2,2,2,2,2,2,1, 0,1,2,2,2,2,1,0, 0,0,1,1,1,1,0,0] := by decide +kernel

/-- V-TD11: bytes 0..31 written except byte 5. -/
theorem test_tdec_uninit :
    record (after .tdec (State.reset.setRaw (Memory.writeRange (Memory.writeRange [] 0 5 (bytes [])) 6 26 (bytes [])))) =
      (0x00000501, 0x00000105) := by decide +kernel

/-- V-TE2. -/
theorem test_tenc_bytes :
    (List.range 32).map (fun i => ((after .tenc (withPix (fun k => BitVec.ofNat 4 k) State.reset)).raw.value i).toNat) =
      [0x55, 0x33, 0x55, 0x33, 0x55, 0x33, 0x55, 0x33, 0x55, 0x33, 0x55, 0x33, 0x55, 0x33, 0x55, 0x33,
       0x0F, 0x00, 0x0F, 0xFF, 0x0F, 0x00, 0x0F, 0xFF, 0x0F, 0x00, 0x0F, 0xFF, 0x0F, 0x00, 0x0F, 0xFF] := by
  decide +kernel

/-- V-TE8: PIX[0..62] written, PIX[63] not. -/
theorem test_tenc_uninit :
    record (after .tenc (State.reset.setPix (Memory.writeRange [] 0 63 (fun _ => 0)))) = (0x00000501, 0x0000023F) := by
  decide +kernel

/-- V-TM1, its last command. -/
theorem test_tld_copies :
    (List.range 32).map (after (.tld 5) (withRaw [] (withTile 5 tileBytesTD9 State.reset))).raw.value = tileBytesTD9 := by
  decide +kernel

/-- V-TM2, V-TM3. -/
theorem test_tld_faults :
    record (after (.tld 512) State.reset) = (0x00000201, 0x00000200) ∧
    record (after (.tld 511) State.reset) = (0x00000301, 0x000001FF) := by decide +kernel

/-- V-TM1, its first command. -/
theorem test_tst_copies :
    (List.range 32).map (fun i => (after (.tst 5) (withRaw tileBytesTD9 State.reset)).tile.value (160 + i)) =
      tileBytesTD9 := by decide +kernel

/-- V-TM4. -/
theorem test_tst_uninit : record (after (.tst 0) State.reset) = (0x00000501, 0x00000100) := by decide +kernel

/-- V-EP2, V-EP5, V-EP6: ENT0 and ENT1. -/
theorem test_eprs_words :
    [[0xFF, 0x01, 0x80, 0x00, 0xFF], [0xFC, 0xC3, 0xFE, 0x20, 0x40], [0x10, 0x42, 0x20, 0x33, 0x9C]].map
        (fun l => let t := after (.eprs 0) (withEntry 0 l State.reset); (ent0Word t.ent, ent1Word t.ent t.entV)) =
      [(0xFF80FFFF, 0x800E0700), (0xFFFEFFFC, 0x80030020), (0x00200010, 0x80040733)] := by decide +kernel

/-- The fault vectors of 95_test_vectors 2.4. -/
theorem test_eprs_faults :
    record (after (.eprs 256) State.reset) = (0x00000201, 0x00000100) ∧
    record (after (.eprs 3) (State.reset.setEntry (Memory.writeRange [] 24 4 (bytes [])))) =
      (0x00000501, 0x0001001C) := by decide +kernel

theorem test_cclr_empties :
    (after .cclr (State.reset.setCanvas [(canvasKey 270 142, .idx 5)])).canvas = [] := by decide +kernel

/-- V-S7: a big entry mirrored left to right, in direct mode. -/
theorem test_draw_big_hflip :
    (after (.draw 0) (quadState 0x40)).canvas =
      [(canvasKey (-4) (-2), .rgb { r := 0, g := 248, b := 0 }), (canvasKey 4 (-2), .rgb { r := 248, g := 0, b := 0 }),
       (canvasKey (-4) 6, .rgb { r := 248, g := 248, b := 248 }), (canvasKey 4 6, .rgb { r := 0, g := 0, b := 248 })] := by
  decide +kernel

/-- V-SF1, V-SF2. -/
theorem test_draw_faults :
    record (after (.draw 0) (spriteState.setMode .direct)) = (0x00000401, 0x00000011) ∧
    record (after (.draw 0) (withTile 0xFF opaqueTile
      (withEntry 0 [0x00, 0xC2, 0x00, 0xFF, 0x00] (State.reset.setMode .indexed)))) = (0x00000301, 0x00000100) := by
  decide +kernel

/-- The canvas of V-S7. -/
def cornersState : State :=
  State.reset.setCanvas [(canvasKey (-4) (-2), .idx 1), (canvasKey 4 (-2), .idx 2), (canvasKey (-4) 6, .idx 3),
    (canvasKey 4 6, .idx 4)]

/-- V-S7: RSIZE, RORG and the cells. -/
theorem test_rast_corners :
    let r := (after .rast cornersState).raster
    (pairWord r.rw r.rh, pairWord r.orgX r.orgY) = (0x00090009, 0x00020004) ∧
    [(0, 0), (0, 8), (8, 0), (8, 8), (0, 1)].map (fun p => r.cellAt p.1 p.2) =
      [some (.idx 1), some (.idx 2), some (.idx 3), some (.idx 4), none] := by decide +kernel

/-- V-S1, and V-S12: an empty canvas, and writes only at negative x. -/
theorem test_rast_origin :
    let r := (after .rast State.reset).raster
    let q := (after .rast (State.reset.setCanvas [(canvasKey (-256) 0, .idx 1)])).raster
    (r.rw, r.rh, r.orgX, r.orgY) = (1, 1, 0, 0) ∧ (q.rw, q.rh, q.orgX, q.orgY) = (257, 1, 256, 0) := by decide +kernel

/-- V-P5, V-P10. -/
theorem test_cv15 :
    rgbWord (after .cv15 (State.reset.setC15 0x1234)).rgb = 0x00A08820 ∧
    record (after .cv15 State.reset) = (0x00000501, 0x00000004) := by decide +kernel

/-- V-Q9, V-Q10, V-Q12. -/
theorem test_cv24 :
    (after .cv24 (State.reset.setRgb { r := 18, g := 52, b := 86 })).c15 = 0x28C2 ∧
    (after .cv24 (State.reset.setRgb { r := 255, g := 0, b := 128 })).c15 = 0x401F ∧
    record (after .cv24 State.reset) = (0x00000501, 0x00000005) := by decide +kernel

/-- V-S10 by COMP: the higher slot wins at its one opaque pixel. -/
theorem test_comp_overlap :
    let t := after (.comp 2) overlapState
    (t.status.word, pairWord t.raster.rw t.raster.rh, cellWord (t.raster.cellAt 10 10), cellWord (t.raster.cellAt 10 11),
      cellWord (t.raster.cellAt 9 9)) = (0x00000002, 0x00120012, 0xC0000022, 0xC0000011, 0x00000000) := by decide +kernel

/-- V-SF4, V-SF6, and 60_exceptions R204 (a): after UNINIT the canvas is as before COMP. -/
theorem test_comp_faults :
    record (after (.comp 257) State.reset) = (0x00000201, 0x00000101) ∧
    record (after (.comp 2) (spriteState.setRaster { rw := 18, rh := 18, orgX := 0, orgY := 0, rbuf := [] })) =
      (0x00000503, 0x00010008) ∧
    (after (.comp 2) (spriteState.setCanvas [(5, .idx 3)])).canvas = [(5, .idx 3)] := by decide +kernel

/-! ### The host port -/

/-- V-TE7, V-P9, V-Q11: bits above the element's width are discarded. -/
theorem test_host_write_widths :
    (stepped (.write 0x23F 0x1F) State.reset).map (fun t => t.pix.read 63) = some (some 15) ∧
    (stepped (.write 0x004 0xFFFF) State.reset).map (fun t => t.c15) = some 0x7FFF ∧
    (stepped (.write 0x005 0xFF123456) State.reset).map (fun t => rgbWord t.rgb) = some 0x00123456 := by decide +kernel

/-- V-F4, V-SF8, and 60_exceptions R208: an illegal word faults, and a faulted PTC ignores CMD but takes data (program P4). -/
theorem test_host_faulted :
    (stepped (.write 0x000 0x00000108) State.reset).map record = some (0x00000101, 0x00000108) ∧
    (stepped (.write 0x000 0x00000008) (withFault State.reset .palMissing 0x11)).map record =
      some (0x00000401, 0x00000011) ∧
    (stepped (.write 0x411 0x1234) (withFault State.reset .palMissing 0x11)).map (fun t => t.pal.read 17) =
      some (some 0x1234) := by decide +kernel

/-- V-EP1 at the port, a raster cell word, and an address the map does not list (ENTRY offset 5, 20_memory R67). -/
theorem test_host_reads :
    (stepped (.read 0x007) (after (.eprs 0) (withEntry 0 [0x0A, 0x00, 0x0A, 0x05, 0x04] State.reset))).map
        (fun t => t.host.result) = some (some 0x80000105) ∧
    (stepped (.read 0x400000) (State.reset.setRaster
        { rw := 1, rh := 1, orgX := 0, orgY := 0, rbuf := [(0, .rgb { r := 160, g := 136, b := 32 })] })).map
        (fun t => t.host.result) = some (some 0x80A08820) ∧
    stepped (.read 0x010005) State.reset = none := by decide +kernel

end Sys2Proof.Tests
end

