-- ==== Sys2Proof/Tests/Witnesses.lean ====
section
/-! SUPPORT. For every statement with hypotheses, concrete states and operands that meet them, clause by clause, at boundary
values. The theorem witness_<Name> is about Obligations.<Name>. -/

namespace Sys2Proof.Tests

open Sys2Proof Sys2Proof.Machine

set_option Elab.async false

/-- The reset state with one pending act of the host. -/
def asking (op : HostOp) : State := State.reset.setPending [op]

/-- A state in which every element the host or a command can write is written. -/
def fullState : State :=
  ((((((((((State.reset.setTile [(32 * 511 + 31, 0xFF)]).setPal [(127, 0x7FFF)]).setEntry [(8 * 255 + 4, 0xFF)]).setRaw
    [(31, 0xFF)]).setPix [(63, 15)]).setC15 0x7FFF).setRgb { r := 255, g := 255, b := 255 }).setEnt
      { x := -256, y := -128, big := true, tile := 255, pal := 7, hf := true, vf := true, prio := true }).setCanvas
        [(canvasKey (-256) (-128), .idx 127), (canvasKey 270 142, .rgb { r := 1, g := 2, b := 3 })]).rasterise)

/-- A 2 x 2 raster with one cell of each kind. -/
def cellsState : State :=
  State.reset.setRaster { rw := 2, rh := 2, orgX := 1, orgY := 1, rbuf := [(0, .idx 127), (0x401, .rgb { r := 9, g := 8, b := 7 })] }

theorem witness_DecodeReadsEncodedCommand :
    ∀ i ∈ [Instr.tdec, .tenc, .tld 65535, .tst 0, .eprs 65535, .cclr, .draw 65535, .rast, .cv15, .cv24, .comp 65535],
      WellFormed i = true := by decide

theorem witness_EveryWordIsOneCommandOrIllegal :
    IllegalWord 0x00000000 ∧ IllegalWord 0x0000000C ∧ IllegalWord 0xFFFFFFFF ∧ IllegalWord 0x00000103 ∧
      IllegalWord 0x0001000A ∧ ¬ IllegalWord 0x00000001 ∧ ¬ IllegalWord 0xFFFF000B ∧ ¬ IllegalWord 0x0000000A := by decide

theorem witness_OpcodeMapReadsOperandField :
    (0xFFFF0003#32).toNat % 65536 = 0x03 ∧ (0x00000004#32).toNat % 65536 = 0x04 ∧ (0xFFFF0005#32).toNat % 65536 = 0x05 ∧
      (0x00010007#32).toNat % 65536 = 0x07 ∧ (0xFFFF000B#32).toNat % 65536 = 0x0B := by decide

/-- The largest operand in both bases, its hexadecimal digits small, capital and mixed. -/
theorem witness_AssemblerEmitsCommandWord :
    ((∀ d ∈ [6, 5, 5, 3, 5], d < 10) ∧ [6, 5, 5, 3, 5].foldl (fun a d => 10 * a + d) 0 = 65535) ∧
      ((∀ d ∈ [15, 15, 15, 15], d < 16) ∧ [15, 15, 15, 15].foldl (fun a d => 16 * a + d) 0 = 65535) ∧
      (∀ text ∈ [['f', 'f', 'f', 'f'], ['F', 'F', 'F', 'F'], ['f', 'F', 'F', 'f']],
        List.Forall₂ (fun c d => c = Nat.digitChar d ∨ c = (Nat.digitChar d).toUpper) text [15, 15, 15, 15]) ∧
      ((∀ d ∈ [0], d < 10) ∧ [0].foldl (fun a d => 10 * a + d) 0 = 0) := by decide

theorem witness_StepPerformsDecodedCommand :
    (asking (.write 0x000000 0x0001000B)).host.pending = .write 0x000000 0x0001000B :: [] ∧
      (asking (.write 0x000000 0x0001000B)).status.fault = false ∧ decode 0x0001000B = .ok (.comp 1) := ⟨rfl, rfl, rfl⟩

theorem witness_FetchWordRunsNext :
    State.reset.status.fault = false ∧ decodeTableWord 32 0x00050004 = some (.tst 5) ∧
      decodeTableWord 8 0x06 = some .cclr := ⟨rfl, rfl, rfl⟩

/-- One word for each part of 30_encoding R83, at the ends of its ranges. -/
theorem witness_IllegalWordRaisesIllegalCmd :
    (IllegalWord 0x00000000 ∧ IllegalWord 0x0000000C ∧ IllegalWord 0x000000FF ∧ IllegalWord 0x00000103 ∧
      IllegalWord 0x0000FF0B ∧ IllegalWord 0x00010001 ∧ IllegalWord 0xFFFF0002 ∧ IllegalWord 0x00010006 ∧
      IllegalWord 0x00010008 ∧ IllegalWord 0x00010009 ∧ IllegalWord 0x0001000A) ∧
    ∀ w, (asking (.write 0x000000 w)).host.pending = .write 0x000000 w :: [] ∧
      (asking (.write 0x000000 w)).status.fault = false :=
  ⟨⟨by decide, by decide, by decide, by decide, by decide, by decide, by decide, by decide, by decide, by decide, by decide⟩,
    fun _ => ⟨rfl, rfl⟩⟩

/-- Both kinds of word of every command's clause on its words: legal, and illegal by RSV or A. -/
theorem witness_CommandWords :
    (∀ op ∈ [0x01, 0x02, 0x06, 0x08, 0x09, 0x0A], (BitVec.ofNat 32 op).toNat % 256 = op ∧
      (BitVec.ofNat 32 op).toNat = op ∧ (BitVec.ofNat 32 (0x10000 + op)).toNat % 256 = op ∧
      (BitVec.ofNat 32 (0x10000 + op)).toNat ≠ op) ∧
    (∀ op ∈ [0x03, 0x04, 0x05, 0x07, 0x0B], (BitVec.ofNat 32 (0xFFFF0000 + op)).toNat % 256 = op ∧
      (BitVec.ofNat 32 (0xFFFF0000 + op)).toNat / 256 % 256 = 0 ∧ (BitVec.ofNat 32 (0xFF00 + op)).toNat % 256 = op ∧
      (BitVec.ofNat 32 (0xFF00 + op)).toNat / 256 % 256 ≠ 0) ∧
    State.reset.status.fault = false := by decide

theorem witness_FaultedPtcIgnoresCommandsOnly :
    ((withFault (asking (.write 0x000000 0x8)) .uninit 4).host.pending = .write 0x000000 0x8 :: [] ∧
      (withFault (asking (.write 0x000000 0x8)) .uninit 4).status.fault = true) ∧
    ((asking (.write 0x000411 0x1234)).host.pending = .write 0x000411 0x1234 :: [] ∧ 0x000411 ≠ 0x000000 ∧
      ∃ t, step (asking (.write 0x000411 0x1234)) = .next t) ∧
    (∀ addr ∈ [0x000000, 0x000001, 0x000002, 0x000003], (asking (.read addr)).host.pending = .read addr :: []) ∧
    (∃ t, step (asking (.read 0x000001)) = .next t) ∧ (∃ t, step (asking (.read 0x000002)) = .next t) ∧
    (∃ t, step (asking (.read 0x000003)) = .next t) := by
  exact ⟨⟨rfl, rfl⟩, ⟨rfl, by decide, _, rfl⟩, fun _ _ => rfl, ⟨_, rfl⟩, ⟨_, rfl⟩, ⟨_, rfl⟩⟩

/-- A step that answers a next state, and one whose address the map does not list. -/
theorem witness_StepStopsOnlyOnUnlistedPort :
    (∃ t, step State.reset = .next t) ∧ step (asking (.read 0x010005)) = .refused (.unlistedPort 0x010005) ∧
      step (asking (.write 0x104000 0)) = .refused (.unlistedPort 0x104000) := ⟨⟨_, rfl⟩, rfl, rfl⟩

theorem witness_ResetSetsEveryElement : (fullState.setPending [.reset]).host.pending = .reset :: [] := rfl

theorem witness_OnlyResetLeavesFaultedState :
    ((withFault (asking .reset) .uninit 4).status.fault = true ∧ ∃ t, step (withFault (asking .reset) .uninit 4) = .next t) ∧
    ((withFault (asking (.write 0 8)) .uninit 4).status.fault = true ∧
      ∃ t, step (withFault (asking (.write 0 8)) .uninit 4) = .next t) := ⟨⟨rfl, _, rfl⟩, ⟨rfl, _, rfl⟩⟩

/-- Every flag the statement speaks of is 1, and the step is a command. -/
theorem witness_WrittenFlagsStayUntilReset :
    let s := fullState.setPending [.write 0x000000 0x00000009]
    (∃ t, step s = .next t) ∧ (∀ rest, s.host.pending ≠ .reset :: rest) ∧
      ((s.tile.read (32 * 511 + 31)).isSome ∧ (s.pal.read 127).isSome ∧ (s.entry.read (8 * 255 + 4)).isSome ∧
        (s.raw.read 31).isSome ∧ (s.pix.read 63).isSome ∧ s.c15V ∧ s.rgbV ∧ s.entV ∧ s.status.rvalid) := by
  refine ⟨⟨_, rfl⟩, fun rest h => by simp at h, by decide⟩

/-- TST meets the premises of every clause but its own; TENC those of the tile clause. -/
theorem witness_CommandsWriteOnlyTheirElements :
    (∃ t, exec (.tst 5) fullState = .next t) ∧ (∃ t, exec .tenc fullState = .next t) ∧
      ((Instr.tst 5 ≠ .tenc ∧ (∀ u, Instr.tst 5 ≠ .tld u)) ∧ Instr.tst 5 ≠ .tdec ∧ Instr.tst 5 ≠ .cv24 ∧
        Instr.tst 5 ≠ .cv15 ∧ (∀ e, Instr.tst 5 ≠ .eprs e) ∧
        (Instr.tst 5 ≠ .cclr ∧ (∀ e, Instr.tst 5 ≠ .draw e) ∧ (∀ n, Instr.tst 5 ≠ .comp n)) ∧ Instr.tst 5 ≠ .rast) ∧
      (∀ u, Instr.tenc ≠ .tst u) := by
  refine ⟨exec_next _ _, exec_next _ _, ?_, ?_⟩ <;> simp

/-- A fault before any write, and one inside a draw, of DRAW and of COMP. -/
theorem witness_FaultingCommandLeavesOtherState :
    ∀ p ∈ [(Instr.tdec, State.reset), (.draw 0, spriteState.setMode .direct), (.comp 1, spriteState.setMode .direct)],
      p.2.status.fault = false ∧ exec p.1 p.2 = .next (after p.1 p.2) ∧ (after p.1 p.2).status.fault = true := by
  have h : ∀ p ∈ [(Instr.tdec, State.reset), (.draw 0, spriteState.setMode .direct), (.comp 1, spriteState.setMode .direct)],
      p.2.status.fault = false ∧ (after p.1 p.2).status.fault = true := by decide +kernel
  exact fun p hp => ⟨(h p hp).1, exec_after _ _, (h p hp).2⟩

/-- No fault, and one fault of each cause. -/
theorem witness_FaultInfoNamesWhatIsMissing :
    ∀ p ∈ [(Instr.cclr, State.reset, none), (.tld 512, State.reset, some Cause.operandRange),
        (.tld 511, State.reset, some Cause.tileMissing), (.draw 0, spriteState.setMode .direct, some Cause.palMissing),
        (.comp 256, State.reset, some Cause.uninit)],
      p.2.1.status.fault = false ∧ exec p.1 p.2.1 = .next (after p.1 p.2.1) ∧
        (after p.1 p.2.1).status.fault = p.2.2.isSome ∧ (after p.1 p.2.1).status.cause = p.2.2 := by
  have h : ∀ p ∈ [(Instr.cclr, State.reset, none), (.tld 512, State.reset, some Cause.operandRange),
      (.tld 511, State.reset, some Cause.tileMissing), (.draw 0, spriteState.setMode .direct, some Cause.palMissing),
      (.comp 256, State.reset, some Cause.uninit)],
      p.2.1.status.fault = false ∧ (after p.1 p.2.1).status.fault = p.2.2.isSome ∧
        (after p.1 p.2.1).status.cause = p.2.2 := by decide +kernel
  exact fun p hp => ⟨(h p hp).1, exec_after _ _, (h p hp).2⟩

/-- The parameters at their defaults and at both ends of their ranges. -/
theorem witness_PortMapListsExactlyTheseAddresses :
    Config.standard.wf ∧ Config.wf { nTiles := 1, nEntries := 1, rgbTo15 := .supplied } ∧
      Config.wf { nTiles := 65536, nEntries := 65535, rgbTo15 := .shift } := by decide

/-- The address of each row at its last element. -/
def rowEnds : List Nat :=
  [0x000100 + 31, 0x000200 + 63, 0x000400 + 127, 0x010000 + 8 * 255 + 4, 0x100000 + 32 * 511 + 31, 0x000003, 0x000004,
    0x000005, 0x000001, 0x000002, 0x000006, 0x000007, 0x000008, 0x000009, 0x400000 + 0x400 * 270 + 526]

theorem witness_HostWriteStoresOneElement :
    ∀ addr ∈ rowEnds, (asking (.write addr 0xFFFFFFFF)).cfg.wf ∧
      (asking (.write addr 0xFFFFFFFF)).host.pending = .write addr 0xFFFFFFFF :: [] ∧
      31 < 32 ∧ 63 < 64 ∧ 127 < 128 ∧ 255 < (asking (.write addr 0xFFFFFFFF)).cfg.nEntries ∧
      511 < (asking (.write addr 0xFFFFFFFF)).cfg.nTiles ∧ 270 < 271 ∧ 526 < 527 := by decide

theorem witness_HostReadReturnsWrittenElement :
    (∀ addr ∈ rowEnds, (fullState.setPending [.read addr]).cfg.wf ∧
      (fullState.setPending [.read addr]).host.pending = .read addr :: []) ∧
      fullState.raw.read 31 = some 0xFF ∧ fullState.pix.read 63 = some 15 ∧ fullState.pal.read 127 = some 0x7FFF ∧
      fullState.entry.read (8 * 255 + 4) = some 0xFF ∧ fullState.tile.read (32 * 511 + 31) = some 0xFF ∧
      fullState.c15V = true ∧ fullState.rgbV = true := by decide

theorem witness_HostReadOfUnwrittenElementHasNoEffect :
    (∀ addr ∈ rowEnds, (asking (.read addr)).cfg.wf ∧ (asking (.read addr)).host.pending = .read addr :: []) ∧
      State.reset.raw.read 31 = none ∧ State.reset.pix.read 63 = none ∧ State.reset.pal.read 127 = none ∧
      State.reset.entry.read (8 * 255 + 4) = none ∧ State.reset.tile.read (32 * 511 + 31) = none ∧
      State.reset.c15V = false ∧ State.reset.rgbV = false := by decide

theorem witness_HostReadOfInvalidOutputHasNoEffect :
    (∀ addr ∈ rowEnds, (asking (.read addr)).cfg.wf ∧ (asking (.read addr)).host.pending = .read addr :: []) ∧
      State.reset.status.rvalid = false ∧ State.reset.entV = false ∧
      (cellsState.status.rvalid = true ∧ cellsState.raster.rw ≤ 526 ∧ cellsState.raster.rh ≤ 270) := by decide

theorem witness_PaletteWordTakesLowByteFirst :
    127 < 128 ∧ (asking (.write (0x000400 + 127) (palWordOfBytes 0x34 0x92))).host.pending =
      .write (0x000400 + 127) (palWordOfBytes 0x34 0x92) :: [] := ⟨by decide, rfl⟩

theorem witness_HostReadsRegisterWords :
    (∀ addr ∈ rowEnds, (fullState.setPending [.read addr]).host.pending = .read addr :: []) ∧
      fullState.entV = true ∧ fullState.status.rvalid = true ∧
      (∀ c ∈ [Cause.illegalCmd, .operandRange, .tileMissing, .palMissing, .uninit],
        (withFault (asking (.read 1)) c 0).host.pending = .read 1 :: [] ∧
          (withFault (asking (.read 1)) c 0).status.cause = some c) := by decide +kernel

/-- A raster with a cell of each kind; the last cell of the largest raster. -/
theorem witness_HostReadsRasterCellWords :
    cellsState.cfg.wf ∧ cellsState.status.rvalid = true ∧ 1 < cellsState.raster.rh ∧ 1 < cellsState.raster.rw ∧
      (cellsState.raster.cellAt 0 1 = none ∧ cellsState.raster.cellAt 0 0 = some (.idx 127) ∧
        cellsState.raster.cellAt 1 1 = some (.rgb { r := 9, g := 8, b := 7 })) ∧
      (∀ p ∈ [(0, 0), (0, 1), (1, 1), (270, 526)], (asking (.read (0x400000 + 0x400 * p.1 + p.2))).host.pending =
        .read (0x400000 + 0x400 * p.1 + p.2) :: []) ∧
      (270 < fullState.raster.rh ∧ 526 < fullState.raster.rw ∧ fullState.status.rvalid = true ∧
        fullState.raster.cellAt 270 526 = some (.rgb { r := 1, g := 2, b := 3 })) := by decide +kernel

/-- RAW whose lowest unwritten byte is the first, is the last, and all of it written. -/
theorem witness_TdecDecodesRawIntoPix :
    LowestUnwritten State.reset.raw 0 32 0 ∧ LowestUnwritten (Memory.writeRange [] 0 31 (bytes [])) 0 32 31 ∧
      Written (withRaw [] State.reset).raw 0 32 := by decide +kernel

theorem witness_TencEncodesPixIntoRaw :
    LowestUnwritten State.reset.pix 0 64 0 ∧
      LowestUnwritten (Memory.writeRange [] 0 63 (fun _ => (0 : Pixel))) 0 64 63 ∧
      Written (withPix (fun _ => 0) State.reset).pix 0 64 := by decide +kernel

theorem witness_TldCopiesTileIntoRaw :
    (State.reset.cfg.nTiles ≤ 512 ∧ State.reset.cfg.nTiles ≤ 65535) ∧
      (511 < State.reset.cfg.nTiles ∧ ¬ Written State.reset.tile (32 * 511) 32) ∧
      (511 < (withTile 511 [] State.reset).cfg.nTiles ∧ Written (withTile 511 [] State.reset).tile (32 * 511) 32) := by
  decide +kernel

theorem witness_TstStoresRawIntoTile :
    (State.reset.cfg.nTiles ≤ 512 ∧ State.reset.cfg.nTiles ≤ 65535) ∧
      (511 < State.reset.cfg.nTiles ∧ LowestUnwritten State.reset.raw 0 32 0 ∧
        LowestUnwritten (Memory.writeRange [] 0 31 (bytes [])) 0 32 31) ∧
      (511 < (withRaw [] State.reset).cfg.nTiles ∧ Written (withRaw [] State.reset).raw 0 32) := by decide +kernel

theorem witness_DecodeAndEncodeTileAreInverse :
    Written (withRaw tileBytesTD9 State.reset).raw 0 32 ∧
      Written (withPix (fun k => BitVec.ofNat 4 k) State.reset).pix 0 64 ∧ 31 < 32 ∧ 7 < 8 := by decide +kernel

/-- Tiles that differ only outside the four bits of pixel (7, 7), and grids that differ only outside pixel (0, 0). -/
theorem witness_TileLanesAreIndependent :
    (∀ b ∈ [2 * 7, 2 * 7 + 1, 16 + 2 * 7, 17 + 2 * 7],
      (bytes (List.replicate 32 0xFE) b).getLsbD (7 - 7) = (bytes (List.replicate 32 0x00) b).getLsbD (7 - 7)) ∧
      (fun r c => BitVec.ofNat 4 (r + c) : Grid) 0 0 = (fun _ _ => 0 : Grid) 0 0 := by decide

theorem witness_EprsParsesEntry :
    State.reset.cfg.nEntries ≤ 256 ∧
      (255 < State.reset.cfg.nEntries ∧ LowestUnwritten State.reset.entry (8 * 255) 5 0 ∧
        LowestUnwritten (Memory.writeRange [] (8 * 255) 4 (bytes [])) (8 * 255) 5 4) ∧
      (let s := withEntry 255 [0xFC, 0xC3, 0xFE, 0x20, 0x40] State.reset
       s.entry.read (8 * 255) = some 0xFC ∧ s.entry.read (8 * 255 + 1) = some 0xC3 ∧
         s.entry.read (8 * 255 + 2) = some 0xFE ∧ s.entry.read (8 * 255 + 3) = some 0x20 ∧
         s.entry.read (8 * 255 + 4) = some 0x40) := by decide +kernel

/-- Byte 1 differing but for bit 0; byte 4 differing in bits 1 and 0 only. -/
theorem witness_ParsedEntryRangesAndBits :
    (0xFE#8).getLsbD 0 = (bytes [] 1).getLsbD 0 ∧
      ∀ n < 8, 2 ≤ n → (0x03#8).getLsbD n = (bytes [] 4).getLsbD n := by decide

theorem witness_CclrEmptiesCanvas : (0x00000006#32).toNat % 256 = 0x06 ∧ (0x00010006#32).toNat % 256 = 0x06 := by decide

/-- A small entry in indexed mode and a big one in direct mode can be drawn. -/
theorem witness_DrawPaintsMirroredBlock :
    (0 < spriteState.cfg.nEntries ∧ SlotDrawable spriteState 0) ∧
      (0 < (quadState 0xC0).cfg.nEntries ∧ SlotDrawable (quadState 0xC0) 0) := by decide +kernel

/-- A big entry at tile 0xFF of which only the first tile is written: the second cannot be read. -/
def halfState : State :=
  withTile 0xFF opaqueTile (withEntry 0 [0x00, 0xC2, 0x00, 0xFF, 0x00] (State.reset.setMode .indexed))

/-- Each clause: the range, the first and last entry byte, a quadrant after a drawable one whose tile cannot be read, a
readable tile whose first pixel has no palette entry. -/
theorem witness_DrawRaisesFirstFault :
    State.reset.cfg.nEntries ≤ 256 ∧
      (255 < State.reset.cfg.nEntries ∧ LowestUnwritten State.reset.entry (8 * 255) 5 0 ∧
        LowestUnwritten (Memory.writeRange [] (8 * 255) 4 (bytes [])) (8 * 255) 5 4) ∧
      (Written halfState.entry (8 * 0) 5 ∧
        spriteTiles (parseEntry (halfState.entryBytes 0)) = [0xFF] ++ 0x100 :: [0x10F, 0x110] ∧
        TileDrawable halfState (parseEntry (halfState.entryBytes 0)).pal 0xFF ∧ ¬ TileReadable halfState 0x100) ∧
      (let s := spriteState.setMode .direct
       Written s.entry (8 * 0) 5 ∧ spriteTiles (parseEntry (s.entryBytes 0)) = [] ++ 5 :: [] ∧ TileReadable s 5 ∧
        ¬ PixelPaintable s (parseEntry (s.entryBytes 0)).pal 5 0 0) := by decide +kernel

theorem witness_PriorityAffectsNoCell :
    spriteState.entry.read (8 * 0 + 4) = some 0x04 ∧ exec (.draw 0) spriteState = .next (after (.draw 0) spriteState) ∧
      exec (.comp 1) spriteState = .next (after (.comp 1) spriteState) := ⟨rfl, exec_after _ _, exec_after _ _⟩

theorem witness_IndexedDrawingReadsNoPalette :
    spriteState.mode = .indexed ∧ exec (.draw 0) spriteState = .next (after (.draw 0) spriteState) ∧
      exec (.comp 1) spriteState = .next (after (.comp 1) spriteState) ∧
      spriteState.status.cause ≠ some .palMissing := ⟨rfl, exec_after _ _, exec_after _ _, by decide⟩

/-- The two far corners of the canvas painted. -/
theorem witness_RastCopiesBoundingBox :
    canvasWf fullState.canvas ∧ InCanvas (-256) (-128) ∧ fullState.canvasAt (-256) (-128) ≠ none ∧ InCanvas 270 142 ∧
      fullState.canvasAt 270 142 ≠ none ∧ (0x00000008#32).toNat % 256 = 0x08 ∧ (0x00000108#32).toNat % 256 = 0x08 := by
  refine ⟨⟨by decide, ?_⟩, by decide⟩
  intro p hp
  simp only [fullState, State.rasterise, setRaster_canvas, setCanvas_canvas, List.mem_cons, List.not_mem_nil, or_false] at hp
  rcases hp with rfl | rfl <;> decide

theorem witness_CompPaintsHighestSlot :
    (0 ≤ State.reset.cfg.nEntries ∧ ∀ e < 0, SlotDrawable State.reset e) ∧
      (2 ≤ overlapState.cfg.nEntries ∧ ∀ e < 2, SlotDrawable overlapState e) := by
  have h0 : SlotDrawable overlapState 0 := by decide +kernel
  have h1 : SlotDrawable overlapState 1 := by decide +kernel
  refine ⟨⟨by decide, fun e he => absurd he (Nat.not_lt_zero e)⟩, by decide, fun e he => ?_⟩
  obtain rfl | rfl : e = 0 ∨ e = 1 := by omega
  · exact h0
  · exact h1

theorem witness_CompEqualsCommandByCommand :
    1 ≤ spriteState.cfg.nEntries ∧ spriteState.status.fault = false ∧ (after (.comp 1) spriteState).status.fault = false ∧
      exec (.comp 1) spriteState = .next (after (.comp 1) spriteState) := by
  have h : 1 ≤ spriteState.cfg.nEntries ∧ spriteState.status.fault = false ∧
      (after (.comp 1) spriteState).status.fault = false := by decide +kernel
  exact ⟨h.1, h.2.1, h.2.2, exec_after _ _⟩

/-- n above N_ENTRIES; n = N_ENTRIES with the first slot unwritten; the second of two entries unwritten after a drawable one;
an entry whose palette entry is missing. -/
theorem witness_CompRaisesFirstFaultOfItsEntries :
    State.reset.cfg.nEntries < 257 ∧
      (256 ≤ State.reset.cfg.nEntries ∧ 0 < 256 ∧ (∀ k < 0, SlotDrawable State.reset k) ∧
        State.reset.status.fault = false ∧ exec (.draw 0) State.reset = .next (after (.draw 0) State.reset) ∧
        (after (.draw 0) State.reset).status.fault = true ∧ (after (.draw 0) State.reset).status.cause = some .uninit) ∧
      (2 ≤ spriteState.cfg.nEntries ∧ 1 < 2 ∧ (∀ k < 1, SlotDrawable spriteState k) ∧ spriteState.status.fault = false ∧
        exec (.draw 1) spriteState = .next (after (.draw 1) spriteState) ∧
        (after (.draw 1) spriteState).status.fault = true ∧
        (after (.draw 1) spriteState).status.cause = some .uninit) ∧
      (let s := spriteState.setMode .direct
       1 ≤ s.cfg.nEntries ∧ 0 < 1 ∧ (∀ k < 0, SlotDrawable s k) ∧ s.status.fault = false ∧
        exec (.draw 0) s = .next (after (.draw 0) s) ∧ (after (.draw 0) s).status.fault = true ∧
        (after (.draw 0) s).status.cause = some .palMissing ∧ Cause.palMissing ≠ .uninit) := by
  have hr : (after (.draw 0) State.reset).status.fault = true ∧
      (after (.draw 0) State.reset).status.cause = some .uninit := by decide +kernel
  have hs : (after (.draw 1) spriteState).status.fault = true ∧
      (after (.draw 1) spriteState).status.cause = some .uninit := by decide +kernel
  have hp : (after (.draw 0) (spriteState.setMode .direct)).status.fault = true ∧
      (after (.draw 0) (spriteState.setMode .direct)).status.cause = some .palMissing := by decide +kernel
  have h0 : SlotDrawable spriteState 0 := by decide +kernel
  refine ⟨by decide, ⟨by decide, by decide, fun k hk => absurd hk (Nat.not_lt_zero k), rfl, exec_after _ _, hr⟩,
    ⟨by decide, by decide, fun k hk => ?_, rfl, exec_after _ _, hs⟩,
    by decide, by decide, fun k hk => absurd hk (Nat.not_lt_zero k), rfl, exec_after _ _, hp.1, hp.2, by decide⟩
  obtain rfl : k = 0 := by omega
  exact h0

theorem witness_Cv15ScalesChannels : State.reset.c15V = false ∧ (State.reset.setC15 0x7FFF).c15V = true := ⟨rfl, rfl⟩

theorem witness_Cv24ConvertsTriplet :
    State.reset.rgbV = false ∧
      ((State.reset.setRgb { r := 255, g := 255, b := 255 }).rgbV = true ∧
        (State.reset.setRgb { r := 255, g := 255, b := 255 }).cfg.rgbTo15 = .shift) ∧
      (let s := (State.resetWith { nTiles := 1, nEntries := 1, rgbTo15 := .supplied }).setRgb { r := 0, g := 0, b := 0 }
       s.rgbV = true ∧ s.cfg.rgbTo15 = .supplied) := ⟨rfl, ⟨rfl, rfl⟩, rfl, rfl⟩

theorem witness_ColourConversionsRoundTrip :
    color15ToRgb 0x1234 = color15ToRgb 0x1234 ∧ (State.reset.setC15 0x7FFF).c15V = true ∧
      (State.reset.setC15 0x7FFF).cfg.rgbTo15 = .shift := ⟨rfl, rfl, rfl⟩

/-- The reset state is well formed, and so is one with written elements at the ends of their ranges, about to run CV15. -/
theorem witness_StepKeepsStateWellFormed :
    State.reset.wf ∧ (∃ t, step State.reset = .next t) ∧
      ∃ s : State, s.wf ∧ s.host.pending = [.write 0x000000 0x00000009] ∧ s.raw.read 31 = some 0xFF ∧
        s.c15V = true ∧ ∃ t, step s = .next t := by
  have h : State.reset.wf := resetWith_wf (by decide)
  refine ⟨h, ⟨_, rfl⟩, ((State.reset.setC15 0x7FFF).setPending [.write 0x000000 0x00000009]).setRaw [(31, 0xFF)], ?_, rfl, rfl,
    rfl, ⟨_, rfl⟩⟩
  have h' : ((State.reset.setC15 0x7FFF).setPending [.write 0x000000 0x00000009]).wf := h
  exact setRaw_wf h' (List.pairwise_singleton _ _) (by intro p hp; simp at hp; subst hp; decide)

end Sys2Proof.Tests
end

section
/-! PROOF of O45: the invariant `State.wf` through each command, each host access and a step, from the lemmas of
Laws/Wf.lean (what an update keeps) and Laws/Exec.lean, Laws/Port.lean (which updates a command or a step can be). -/

namespace Sys2Proof.Machine

/-! ### Writes that keep a memory of the invariant in its form -/

/-- The operand check of TLD and TST passes exactly for the slots of tile memory. -/
theorem tileSlotFault_eq_none (s : State) (t : Nat) : s.tileSlotFault t = none ↔ t < s.cfg.nTiles := by
  constructor
  · intro h
    by_contra hn
    rw [tileSlotFault_of_le (Nat.not_lt.mp hn)] at h
    exact absurd h (by simp)
  · exact tileSlotFault_of_lt

/-- A range write of PIX inside its 64 elements (10_state R27). -/
theorem setPix_writeRange_wf {s : State} {base n : Nat} {f : Nat → Pixel} (h : s.wf) (hn : base + n ≤ 64) :
    (s.setPix (s.pix.writeRange base n f)).wf := by
  obtain ⟨-, ⟨-, -, -, -, hm, hb⟩, -⟩ := id h
  exact setPix_wf h (writeRange_wf _ _ _ _ hm) (below_writeRange hb hn)

/-- A range write of RAW inside its 32 bytes (10_state R26). -/
theorem setRaw_writeRange_wf {s : State} {base n : Nat} {f : Nat → Byte} (h : s.wf) (hn : base + n ≤ 32) :
    (s.setRaw (s.raw.writeRange base n f)).wf := by
  obtain ⟨-, ⟨-, -, -, ⟨hm, hb⟩, -⟩, -⟩ := id h
  exact setRaw_wf h (writeRange_wf _ _ _ _ hm) (below_writeRange hb hn)

/-- A range write of TILE inside its `N_TILES` slots (10_state R23). -/
theorem setTile_writeRange_wf {s : State} {base n : Nat} {f : Nat → Byte} (h : s.wf)
    (hn : base + n ≤ 32 * s.cfg.nTiles) : (s.setTile (s.tile.writeRange base n f)).wf := by
  obtain ⟨-, ⟨⟨hm, hb⟩, -⟩, -⟩ := id h
  exact setTile_wf h (writeRange_wf _ _ _ _ hm) (below_writeRange hb hn)

/-- A write of one palette entry (10_state R24). -/
theorem setPal_write_wf {s : State} {a : Nat} {v : Color15} (h : s.wf) (ha : a < 128) :
    (s.setPal (s.pal.write a v)).wf := by
  obtain ⟨-, ⟨-, ⟨hm, hb⟩, -⟩, -⟩ := id h
  exact setPal_wf h (write_wf _ _ _ hm) (below_write hb ha)

/-- A write of one byte of a tilemap entry; the slot stride is 8, its bytes are 0..4 (10_state R25). -/
theorem setEntry_write_wf {s : State} {e i : Nat} {v : Byte} (h : s.wf) (he : e < s.cfg.nEntries) (hi : i < 5) :
    (s.setEntry (s.entry.write (entryKey e i) v)).wf := by
  obtain ⟨-, ⟨-, -, ⟨hm, hb⟩, -⟩, -⟩ := id h
  refine setEntry_wf h (write_wf _ _ _ hm) fun p hp => ?_
  rcases mem_write _ _ _ _ hp with hp | hp
  · rw [hp, entryKey]; omega
  · exact hb p hp

/-! ### Commands -/

/-- Composing any slots onto a canvas gives a canvas (41_compositor R138, R145). -/
theorem runLoop_drawSlot_keeps_wf {s : State} {slots : List Nat} {m m' : Memory Paint} (hm : canvasWf m)
    (h : runLoop (drawSlot s) slots m = .ok m') : canvasWf m' :=
  runLoop_keeps canvasWf (fun _ _ _ _ hc hd => drawSlot_keeps_wf hc hd) hm h

theorem execTdec_keeps_wf {s t : State} (h : s.wf) (ht : execTdec s = .next t) : t.wf := by
  obtain ⟨_, -, rfl⟩ | ⟨-, rfl⟩ := execTdec_cases ht
  · exact raise_wf h
  · exact setPix_writeRange_wf h (Nat.le_refl 64)

theorem execTenc_keeps_wf {s t : State} (h : s.wf) (ht : execTenc s = .next t) : t.wf := by
  obtain ⟨_, -, rfl⟩ | ⟨-, rfl⟩ := execTenc_cases ht
  · exact raise_wf h
  · exact setRaw_writeRange_wf h (Nat.le_refl 32)

theorem execTld_keeps_wf {s t : State} {n : Nat} (h : s.wf) (ht : execTld n s = .next t) : t.wf := by
  obtain ⟨_, -, rfl⟩ | ⟨-, -, rfl⟩ := execTld_cases ht
  · exact raise_wf h
  · exact setRaw_writeRange_wf h (Nat.le_refl 32)

theorem execTst_keeps_wf {s t : State} {n : Nat} (h : s.wf) (ht : execTst n s = .next t) : t.wf := by
  obtain ⟨_, -, rfl⟩ | ⟨hn, -, rfl⟩ := execTst_cases ht
  · exact raise_wf h
  · have hn := (tileSlotFault_eq_none s n).mp hn
    exact setTile_writeRange_wf h (by rw [tileKey]; omega)

theorem execEprs_keeps_wf {s t : State} {e : Nat} (h : s.wf) (ht : execEprs e s = .next t) : t.wf := by
  obtain ⟨_, -, rfl⟩ | ⟨-, -, rfl⟩ := execEprs_cases ht
  · exact raise_wf h
  · exact setEnt_wf h (parseEntry_wf _)

theorem execCclr_keeps_wf {s t : State} (h : s.wf) (ht : execCclr s = .next t) : t.wf := by
  rw [execCclr_cases ht]
  exact setCanvas_wf h canvasWf_nil

theorem execDraw_keeps_wf {s t : State} {e : Nat} (h : s.wf) (ht : execDraw e s = .next t) : t.wf := by
  obtain ⟨_, -, rfl⟩ | ⟨_, hd, rfl⟩ | ⟨_, -, rfl⟩ := execDraw_cases ht
  · exact raise_wf h
  · obtain ⟨-, -, hcanvas, -⟩ := id h
    exact setCanvas_wf h (drawEntry_keeps_wf (parseEntry_wf _) hcanvas hd)
  · exact raise_wf (loseCanvas_wf h)

theorem execRast_keeps_wf {s t : State} (h : s.wf) (ht : execRast s = .next t) : t.wf := by
  obtain ⟨-, -, hcanvas, -⟩ := id h
  rw [execRast_cases ht]
  exact setRaster_wf h (rasterOf_wf hcanvas)

theorem execComp_keeps_wf {s t : State} {n : Nat} (h : s.wf) (ht : execComp n s = .next t) : t.wf := by
  obtain ⟨_, -, rfl⟩ | ⟨_, hd, rfl⟩ | ⟨_, -, ⟨-, rfl⟩ | ⟨-, rfl⟩⟩ := execComp_cases ht
  · exact raise_wf h
  · have hm := runLoop_drawSlot_keeps_wf canvasWf_nil hd
    exact setRaster_wf (setCanvas_wf h hm) (rasterOf_wf hm)
  · exact raise_wf h
  · exact raise_wf (loseCanvas_wf h)

/-- C15 and RGB hold any value of their width, so the invariant does not speak of them. -/
theorem setC15_wf {s : State} {c : Color15} (h : s.wf) : (s.setC15 c).wf := h

theorem setRgb_wf {s : State} {c : Rgb} (h : s.wf) : (s.setRgb c).wf := h

theorem execCv15_keeps_wf {s t : State} (h : s.wf) (ht : execCv15 s = .next t) : t.wf := by
  obtain ⟨_, -, rfl⟩ | ⟨-, rfl⟩ := execCv15_cases ht
  · exact raise_wf h
  · exact setRgb_wf h

theorem execCv24_keeps_wf {s t : State} (h : s.wf) (ht : execCv24 s = .next t) : t.wf := by
  obtain ⟨_, -, rfl⟩ | ⟨-, rfl⟩ := execCv24_cases ht
  · exact raise_wf h
  · exact setC15_wf h

/-- Every command keeps the invariant, for every operand, one no word encodes included (log 19). -/
theorem exec_keeps_wf {s t : State} {i : Instr} (h : s.wf) (ht : exec i s = .next t) : t.wf := by
  cases i with
  | tdec => exact execTdec_keeps_wf h ht
  | tenc => exact execTenc_keeps_wf h ht
  | tld n => exact execTld_keeps_wf h ht
  | tst n => exact execTst_keeps_wf h ht
  | eprs e => exact execEprs_keeps_wf h ht
  | cclr => exact execCclr_keeps_wf h ht
  | draw e => exact execDraw_keeps_wf h ht
  | rast => exact execRast_keeps_wf h ht
  | cv15 => exact execCv15_keeps_wf h ht
  | cv24 => exact execCv24_keeps_wf h ht
  | comp n => exact execComp_keeps_wf h ht

/-! ### Accesses of the host -/

/-- The invariant speaks of the machine only: which accesses the host has left does not matter. -/
theorem afterAccess_wf {s : State} {rest : List HostOp} (h : s.wf) : (afterAccess s rest).wf := h

/-- A reset keeps the parameters, so their ranges, and puts every element at its reset value (70_reset R240). -/
theorem hostReset_wf {s : State} (h : s.wf) : s.hostReset.wf := by
  obtain ⟨hcfg, -⟩ := h
  exact resetWith_wf (c := s.cfg) hcfg

theorem hostRead_wf {s : State} {p : Port} (h : s.wf) : (hostRead s p).wf := by
  obtain ⟨_, _, heq, -⟩ := hostRead_frame s p
  rw [heq]
  exact h

/-- A host write to an element the map lists keeps the invariant: its key is one of the element's memory (20_memory R66). A
write of one element is a range write of length 1. -/
theorem hostWrite_wf {s : State} {w : Word} {p : Port} (h : s.wf) (hp : PortListed s.cfg p) : (hostWrite s w p).wf := by
  cases p with
  | raw i => exact setRaw_writeRange_wf (n := 1) (f := fun _ => w.setWidth 8) h (Nat.succ_le_of_lt hp)
  | pix k => exact setPix_writeRange_wf (n := 1) (f := fun _ => w.setWidth 4) h (Nat.succ_le_of_lt hp)
  | pal a => exact setPal_write_wf h hp
  | entry e i =>
    obtain ⟨he, hi⟩ := hp
    exact setEntry_write_wf h he hi
  | tile t i =>
    obtain ⟨ht, hi⟩ := hp
    exact setTile_writeRange_wf (base := tileKey t i) (n := 1) (f := fun _ => w.setWidth 8) h (by rw [tileKey]; omega)
  | _ => exact h

/-- Every step keeps the invariant. -/
theorem step_keeps_wf {s t : State} (h : s.wf) (ht : step s = .next t) : t.wf := by
  obtain ⟨-, rfl⟩ | ⟨_, rest, -, hop⟩ := step_cases ht
  · exact h
  have h' : (afterAccess s rest).wf := afterAccess_wf h
  obtain ⟨-, rfl⟩ | ⟨_, _, -, -, rfl⟩ | ⟨_, _, _, -, hport, -, rfl⟩ | ⟨_, -, -, rfl⟩ | ⟨_, _, -, -, -, rfl⟩ |
    ⟨_, _, -, -, -, hexec⟩ := hop
  · exact hostReset_wf h'
  · exact hostRead_wf h'
  · obtain ⟨hlisted, -⟩ := portOf_some hport
    exact hostWrite_wf h' hlisted
  · exact h'
  · exact raise_wf h'
  · exact exec_keeps_wf h' hexec

/-- Settles O45: by the cases of a step, a command by its own meaning and a host write by the row of the port map it
names. -/
theorem stepKeepsStateWellFormed : Obligations.StepKeepsStateWellFormed := fun _ _ h ht => step_keeps_wf h ht

end Sys2Proof.Machine
end

section
/-! PROOF of O6 and O7: a CMD write of a legal word is its command (10_state R40), and `withFetchWord` is such a write. -/

namespace Sys2Proof.Machine

/-- A CMD write of a legal word to a PTC that is not faulted performs the command (10_state R40). -/
theorem cmdWrite_of_ok {s : State} {w : Word} {i : Instr} (hf : s.status.fault = false) (hd : decode w = .ok i) :
    cmdWrite s w = exec i s := by
  rw [cmdWrite, hf, hd]; rfl

/-- Settles O6: a step is its first pending access, and a legal CMD write its command. -/
theorem stepPerformsDecodedCommand : Obligations.StepPerformsDecodedCommand := by
  intro s w i rest hp hf hd
  calc step s = hostOp (afterAccess s rest) (.write 0x000000 w) := step_pending hp
    _ = cmdWrite (afterAccess s rest) w := hostOp_write_cmd _ _
    _ = exec i (afterAccess s rest) := cmdWrite_of_ok hf hd

/-- A row of the opcode table reads as `i` when the decoder takes its port word for `i`. -/
theorem decode_tableWord {nbits w : Nat} {i : Instr} (h : decodeTableWord nbits w = some i) :
    decode (tableWord nbits w) = .ok i := by
  unfold decodeTableWord at h
  split at h
  · next hd => cases h; exact hd
  · cases h

/-- Once the access `placeCommand` puts first is performed, the host's side is as before it. -/
theorem afterAccess_placeCommand (s : State) (w : Word) : afterAccess (s.placeCommand w) s.host.pending = s := rfl

/-- Settles O7: `withFetchWord` makes the word's CMD write the first pending access, the case of O6. -/
theorem fetchWordRunsNext : Obligations.FetchWordRunsNext := by
  intro s nbits w i hf hd
  have h := stepPerformsDecodedCommand (s.withFetchWord nbits w) _ i s.host.pending rfl hf (decode_tableWord hd)
  rwa [State.withFetchWord, afterAccess_placeCommand] at h

end Sys2Proof.Machine
end

section
/-! PROOF of O20, O21 and O23: what a step with a host read does. A read answers either a fixed word (`step_read_word`) or a
free one cut to a mask (`step_read_free`); each row of the port map is then one of the two. -/

namespace Sys2Proof.Machine

/-- A word cut to its `width` low bits is below `2 ^ width`. -/
theorem toNat_and_lowMask_lt (x : Word) (width : Nat) : (x &&& BitVec.ofNat 32 (2 ^ width - 1)).toNat < 2 ^ width := by
  have hpos := Nat.two_pow_pos width
  calc (x &&& BitVec.ofNat 32 (2 ^ width - 1)).toNat
      ≤ (BitVec.ofNat 32 (2 ^ width - 1)).toNat := by rw [BitVec.toNat_and]; exact Nat.and_le_right
    _ ≤ 2 ^ width - 1 := by rw [BitVec.toNat_ofNat]; exact Nat.mod_le _ _
    _ < 2 ^ width := by omega

section

variable {s : State} {addr : Nat} {rest : List HostOp} {p : Port}

theorem step_read (hpend : s.host.pending = .read addr :: rest) (hport : portOf s.cfg addr = some p) :
    step s = .next (hostRead (afterAccess s rest) p) := by
  rw [step_pending hpend]
  exact hostOp_read hport

/-- A read of a fixed word, given as the number it is laid out as. -/
theorem step_read_word {w : Word} {n : Nat} (hpend : s.host.pending = .read addr :: rest)
    (hport : portOf s.cfg addr = some p) (hread : hostRead (afterAccess s rest) p = (afterAccess s rest).readAs w)
    (hw : w.toNat = n) : step s = .next (withResult (afterAccess s rest) (BitVec.ofNat 32 n)) := by
  rw [step_read hpend hport, hread, ← hw, BitVec.ofNat_toNat, BitVec.setWidth_eq]
  rfl

/-- A read of a free word: all that is known of it is what its mask says, and one free value was drawn (log 5). -/
theorem step_read_free {mask : Word} {ok : Word → Prop} (hpend : s.host.pending = .read addr :: rest)
    (hport : portOf s.cfg addr = some p) (hread : hostRead (afterAccess s rest) p = (afterAccess s rest).readFree mask)
    (hok : ∀ x, ok (x &&& mask)) :
    ∃ v, ok v ∧ step s = .next { withResult (afterAccess s rest) v with draws := s.draws + 1 } := by
  refine ⟨Config.freeWord s.draws &&& mask, hok _, ?_⟩
  rw [step_read hpend hport, hread]
  rfl

/-- A read of an element of `width` bits whose written flag is 0. -/
theorem step_read_unwritten {width : Nat} (hpend : s.host.pending = .read addr :: rest)
    (hport : portOf s.cfg addr = some p) {v : Option (BitVec width)} (hv : v = none)
    (hread : hostRead (afterAccess s rest) p = (afterAccess s rest).readElement v) :
    ∃ x : Word, x.toNat < 2 ^ width ∧
      step s = .next { withResult (afterAccess s rest) x with draws := s.draws + 1 } := by
  subst hv
  exact step_read_free hpend hport hread fun x => toNat_and_lowMask_lt x width

end

/-! ### Unwritten elements -/

/-- Settles O20: every row of the map the statement names reads an element, and its written flag is 0. -/
theorem hostReadOfUnwrittenElementHasNoEffect : Obligations.HostReadOfUnwrittenElementHasNoEffect := by
  intro s addr rest hcfg hpend
  refine ⟨?raw, ?pix, ?pal, ?entry, ?tile, ?c15, ?rgb⟩
  case raw => exact fun i hi ha hv => step_read_unwritten hpend (portOf_raw hi ha) hv rfl
  case pix => exact fun k hk ha hv => step_read_unwritten hpend (portOf_pix hk ha) hv rfl
  case pal => exact fun a h ha hv => step_read_unwritten hpend (portOf_pal h ha) hv rfl
  case entry => exact fun e he i hi ha hv => step_read_unwritten hpend (portOf_entry he hi ha) hv rfl
  case tile => exact fun t ht i hi ha hv => step_read_unwritten hpend (portOf_tile hcfg ht hi ha) hv rfl
  case c15 =>
    rintro rfl hv
    exact step_read_unwritten hpend rfl (if_neg (Bool.eq_false_iff.mp hv)) rfl
  case rgb =>
    rintro rfl hv
    exact step_read_unwritten hpend rfl (if_neg (Bool.eq_false_iff.mp hv)) rfl

/-! ### Invalid outputs -/

/-- The free bits of ENT1 are its fields but V: 31:20 and 15:11 read 0 (30_encoding R91; log 14). -/
theorem toNat_and_ent1FieldMask (x : Word) :
    (x &&& ent1FieldMask).toNat / 0x100000 = 0 ∧ (x &&& ent1FieldMask).toNat / 0x800 % 32 = 0 := by
  have hmask : ent1FieldMask.toNat = 0x000F07FF := rfl
  rw [BitVec.toNat_and, hmask]
  constructor
  · rw [Nat.and_div_two_pow (n := 20)]; simp
  · rw [Nat.and_div_two_pow (n := 11), Nat.and_mod_two_pow (n := 5)]; simp

/-- Settles O21: each of these reads takes the branch of its row that draws a free word, since its valid bit is 0 or the
cell lies outside the raster. -/
theorem hostReadOfInvalidOutputHasNoEffect : Obligations.HostReadOfInvalidOutputHasNoEffect := by
  intro s addr rest hcfg hpend
  refine ⟨?sizes, ?cell, ?ent0, ?ent1⟩
  case sizes =>
    intro ha hv
    have hv : ¬ s.status.rvalid = true := Bool.eq_false_iff.mp hv
    simp only [List.mem_cons, List.not_mem_nil, or_false] at ha
    obtain rfl | rfl := ha
    · exact step_read_free hpend rfl (if_neg hv) fun _ => trivial
    · exact step_read_free hpend rfl (if_neg hv) fun _ => trivial
  case cell =>
    intro j hj i hi ha hout
    have hout : ¬ (s.status.rvalid = true ∧ i < s.raster.rw ∧ j < s.raster.rh) := by
      rintro ⟨hv, hw, hh⟩
      obtain h | h | h := hout
      · exact Bool.eq_false_iff.mp h hv
      · omega
      · omega
    exact step_read_free hpend (portOf_rbuf hcfg hj hi ha) (if_neg hout) fun _ => trivial
  case ent0 =>
    rintro rfl hv
    exact step_read_free hpend rfl (if_neg (Bool.eq_false_iff.mp hv)) fun _ => trivial
  case ent1 =>
    rintro rfl hv
    exact step_read_free hpend rfl (if_neg (Bool.eq_false_iff.mp hv)) toNat_and_ent1FieldMask

/-! ### Register words -/

/-- STATUS.CAUSE by the codes of 60_exceptions R200. -/
theorem toNat_causeCode {st : Status} {code : Nat} (h : (st.cause, code) ∈ [(none, 0), (some Cause.illegalCmd, 1),
    (some .operandRange, 2), (some .tileMissing, 3), (some .palMissing, 4), (some .uninit, 5)]) :
    st.causeCode.toNat = code := by
  simp only [List.mem_cons, Prod.mk.injEq, List.not_mem_nil, or_false] at h
  obtain ⟨hc, rfl⟩ | ⟨hc, rfl⟩ | ⟨hc, rfl⟩ | ⟨hc, rfl⟩ | ⟨hc, rfl⟩ | ⟨hc, rfl⟩ := h <;>
    simp [Status.causeCode, hc, Cause.code]

theorem toNat_modeWord (m : Mode) : m.word.toNat = if m = .indexed then 1 else 0 := by
  cases m <;> rfl

/-- Settles O23: each of these reads takes the branch of its row that answers a word, and Laws/Words.lean says which number
the word's layout is. -/
theorem hostReadsRegisterWords : Obligations.HostReadsRegisterWords := by
  intro s addr rest hpend
  refine ⟨?cmd, ?status, ?finfo, ?ctrl, ?ent0, ?ent1, ?rsize, ?rorg⟩
  case cmd =>
    rintro rfl
    exact step_read_word hpend rfl rfl rfl
  case status =>
    rintro rfl code hcode
    exact step_read_word hpend rfl rfl (by rw [← toNat_causeCode hcode]; exact toNat_statusWord s.status)
  case finfo =>
    rintro rfl
    exact step_read_word hpend rfl rfl rfl
  case ctrl =>
    rintro rfl
    exact step_read_word hpend rfl rfl (toNat_modeWord s.mode)
  case ent0 =>
    rintro rfl hv
    exact step_read_word hpend rfl (if_pos hv) (toNat_ent0Word s.ent)
  case ent1 =>
    rintro rfl hv
    exact step_read_word hpend rfl (if_pos hv) (toNat_ent1Word s.ent true)
  case rsize =>
    rintro rfl hv
    exact step_read_word hpend rfl (if_pos hv) (toNat_pairWord s.raster.rw s.raster.rh)
  case rorg =>
    rintro rfl hv
    exact step_read_word hpend rfl (if_pos hv) (toNat_pairWord s.raster.orgX s.raster.orgY)

end Sys2Proof.Machine
end

section
/-! PROOF of O13 and O14: `CommandEffect` says once which update each command can be, from Laws/Exec.lean; which elements a
command leaves, and which written flags stay, is then read off the update. -/

namespace Sys2Proof.Machine

/-- What a command can have done to `s` when it answers a next state (10_state R23 to R33, 60_exceptions R204): raise a
fault, for DRAW and COMP also with CANVAS lost, or write the elements it is named for. The values are any. -/
inductive CommandEffect (s : State) : Instr → State → Prop
  | fault (i : Instr) (f : FaultRecord) : CommandEffect s i (s.raise f)
  | tdec (v : Nat → Pixel) : CommandEffect s .tdec (s.setPix (s.pix.writeRange 0 64 v))
  | tenc (v : Nat → Byte) : CommandEffect s .tenc (s.setRaw (s.raw.writeRange 0 32 v))
  | tld (t : Nat) (v : Nat → Byte) : CommandEffect s (.tld t) (s.setRaw (s.raw.writeRange 0 32 v))
  | tst (t : Nat) (v : Nat → Byte) : CommandEffect s (.tst t) (s.setTile (s.tile.writeRange (tileKey t 0) 32 v))
  | eprs (e : Nat) (v : ParsedEntry) : CommandEffect s (.eprs e) (s.setEnt v)
  | cclr : CommandEffect s .cclr (s.setCanvas [])
  | draw (e : Nat) (m : Memory Paint) : CommandEffect s (.draw e) (s.setCanvas m)
  | drawFault (e : Nat) (f : FaultRecord) : CommandEffect s (.draw e) (s.loseCanvas.raise f)
  | rast (r : Raster) : CommandEffect s .rast (s.setRaster r)
  | cv15 (c : Rgb) : CommandEffect s .cv15 (s.setRgb c)
  | cv24 (c : Color15) : CommandEffect s .cv24 (s.setC15 c)
  | comp (n : Nat) (m : Memory Paint) (r : Raster) : CommandEffect s (.comp n) ((s.setCanvas m).setRaster r)
  | compFault (n : Nat) (f : FaultRecord) : CommandEffect s (.comp n) (s.loseCanvas.raise f)

theorem exec_effect {i : Instr} {s t : State} (h : exec i s = .next t) : CommandEffect s i t := by
  cases i with
  | tdec => obtain ⟨f, -, rfl⟩ | ⟨-, rfl⟩ := execTdec_cases h; exacts [.fault _ f, .tdec _]
  | tenc => obtain ⟨f, -, rfl⟩ | ⟨-, rfl⟩ := execTenc_cases h; exacts [.fault _ f, .tenc _]
  | tld n => obtain ⟨f, -, rfl⟩ | ⟨-, -, rfl⟩ := execTld_cases h; exacts [.fault _ f, .tld n _]
  | tst n => obtain ⟨f, -, rfl⟩ | ⟨-, -, rfl⟩ := execTst_cases h; exacts [.fault _ f, .tst n _]
  | eprs e => obtain ⟨f, -, rfl⟩ | ⟨-, -, rfl⟩ := execEprs_cases h; exacts [.fault _ f, .eprs e _]
  | cclr => rw [execCclr_cases h]; exact .cclr
  | draw e =>
    obtain ⟨f, -, rfl⟩ | ⟨m, -, rfl⟩ | ⟨f, -, rfl⟩ := execDraw_cases h
    exacts [.fault _ f, .draw e m, .drawFault e f]
  | rast => rw [execRast_cases h]; exact .rast _
  | cv15 => obtain ⟨f, -, rfl⟩ | ⟨-, rfl⟩ := execCv15_cases h; exacts [.fault _ f, .cv15 _]
  | cv24 => obtain ⟨f, -, rfl⟩ | ⟨-, rfl⟩ := execCv24_cases h; exacts [.fault _ f, .cv24 _]
  | comp n =>
    obtain ⟨f, -, rfl⟩ | ⟨m, -, rfl⟩ | ⟨f, -, ⟨-, rfl⟩ | ⟨-, rfl⟩⟩ := execComp_cases h
    exacts [.fault _ f, .comp n m _, .fault _ f, .compFault n f]

/-- Settles O14: the update each command can be leaves every element but the ones the command is named for. -/
theorem commandsWriteOnlyTheirElements : Obligations.CommandsWriteOnlyTheirElements := by
  intro i s t h
  cases exec_effect h <;> simp

/-! ### Written flags -/

/-- A range write clears no written flag (10_state R29). -/
theorem isSome_read_writeRange {α : Type} {m : Memory α} {base n : Nat} {v : Nat → α} {a : Nat}
    (h : (m.read a).isSome = true) : ((m.writeRange base n v).read a).isSome = true := by
  rw [read_writeRange]
  split
  · rfl
  · exact h

/-- A write clears no written flag (10_state R29): it is a range write of length 1. -/
theorem isSome_read_write {α : Type} {m : Memory α} {k : Nat} {v : α} {a : Nat} (h : (m.read a).isSome = true) :
    ((m.write k v).read a).isSome = true :=
  isSome_read_writeRange (base := k) (n := 1) (v := fun _ => v) h

/-- Every written flag, ENT.V and STATUS.RVALID that is 1 in `s` is 1 in `t` (10_state R29, R31, R41). -/
structure WrittenFlagsStay (s t : State) : Prop where
  tile (a : Nat) : (s.tile.read a).isSome = true → (t.tile.read a).isSome = true
  pal (a : Nat) : (s.pal.read a).isSome = true → (t.pal.read a).isSome = true
  entry (a : Nat) : (s.entry.read a).isSome = true → (t.entry.read a).isSome = true
  raw (a : Nat) : (s.raw.read a).isSome = true → (t.raw.read a).isSome = true
  pix (a : Nat) : (s.pix.read a).isSome = true → (t.pix.read a).isSome = true
  c15V : s.c15V = true → t.c15V = true
  rgbV : s.rgbV = true → t.rgbV = true
  entV : s.entV = true → t.entV = true
  rvalid : s.status.rvalid = true → t.status.rvalid = true

namespace WrittenFlagsStay

theorem refl (s : State) : WrittenFlagsStay s s :=
  ⟨fun _ => id, fun _ => id, fun _ => id, fun _ => id, fun _ => id, id, id, id, id⟩

/-! An update of one memory needs that memory's flags kept; the others are those of `s`. -/

theorem setTile {s : State} {m : Memory Byte}
    (h : ∀ a, (s.tile.read a).isSome = true → (m.read a).isSome = true) : WrittenFlagsStay s (s.setTile m) :=
  { refl s with tile := h }

theorem setPal {s : State} {m : Memory Color15}
    (h : ∀ a, (s.pal.read a).isSome = true → (m.read a).isSome = true) : WrittenFlagsStay s (s.setPal m) :=
  { refl s with pal := h }

theorem setEntry {s : State} {m : Memory Byte}
    (h : ∀ a, (s.entry.read a).isSome = true → (m.read a).isSome = true) : WrittenFlagsStay s (s.setEntry m) :=
  { refl s with entry := h }

theorem setRaw {s : State} {m : Memory Byte}
    (h : ∀ a, (s.raw.read a).isSome = true → (m.read a).isSome = true) : WrittenFlagsStay s (s.setRaw m) :=
  { refl s with raw := h }

theorem setPix {s : State} {m : Memory Pixel}
    (h : ∀ a, (s.pix.read a).isSome = true → (m.read a).isSome = true) : WrittenFlagsStay s (s.setPix m) :=
  { refl s with pix := h }

/-- C15 and RGB are written with their flag (10_state R29). -/
theorem setC15 (s : State) (c : Color15) : WrittenFlagsStay s (s.setC15 c) := { refl s with c15V := fun _ => rfl }

theorem setRgb (s : State) (c : Rgb) : WrittenFlagsStay s (s.setRgb c) := { refl s with rgbV := fun _ => rfl }

end WrittenFlagsStay

/-- No command clears a flag: the memories it writes, it writes by ranges, and the valid bits it writes, it sets. -/
theorem exec_keeps_writtenFlags {i : Instr} {s t : State} (h : exec i s = .next t) : WrittenFlagsStay s t := by
  cases exec_effect h with
  | tdec => exact .setPix fun _ => isSome_read_writeRange
  | tenc | tld => exact .setRaw fun _ => isSome_read_writeRange
  | tst => exact .setTile fun _ => isSome_read_writeRange
  | eprs => exact { WrittenFlagsStay.refl s with entV := fun _ => rfl }
  | cv15 => exact .setRgb s _
  | cv24 => exact .setC15 s _
  | rast | comp => exact { WrittenFlagsStay.refl s with rvalid := fun _ => rfl }
  | fault | cclr | draw | drawFault | compFault => exact { WrittenFlagsStay.refl s with }

/-- No host write clears a flag (10_state R29, 20_memory R66). -/
theorem hostWrite_keeps_writtenFlags (s : State) (w : Word) (p : Port) : WrittenFlagsStay s (hostWrite s w p) := by
  cases p with
  | raw => exact .setRaw fun _ => isSome_read_write
  | pix => exact .setPix fun _ => isSome_read_write
  | pal => exact .setPal fun _ => isSome_read_write
  | entry => exact .setEntry fun _ => isSome_read_write
  | tile => exact .setTile fun _ => isSome_read_write
  | c15 => exact .setC15 s _
  | rgb => exact .setRgb s _
  | _ => exact { WrittenFlagsStay.refl s with }

theorem hostRead_keeps_writtenFlags (s : State) (p : Port) : WrittenFlagsStay s (hostRead s p) := by
  obtain ⟨_, _, heq, -⟩ := hostRead_frame s p
  rw [heq]
  exact { WrittenFlagsStay.refl s with }

/-- The host's pending accesses are no part of any flag. -/
theorem WrittenFlagsStay.of_afterAccess {s t : State} {rest : List HostOp} (h : WrittenFlagsStay (afterAccess s rest) t) :
    WrittenFlagsStay s t :=
  { h with }

/-- Every step but a reset keeps the flags. -/
theorem step_keeps_writtenFlags {s t : State} (h : step s = .next t) (hreset : ∀ rest, s.host.pending ≠ .reset :: rest) :
    WrittenFlagsStay s t := by
  obtain ⟨-, rfl⟩ | ⟨_, rest, hpend, hop⟩ := step_cases h
  · exact .refl _
  refine .of_afterAccess (rest := rest) ?_
  obtain ⟨rfl, -⟩ | ⟨_, _, -, -, rfl⟩ | ⟨_, _, _, -, -, -, rfl⟩ | ⟨_, -, -, rfl⟩ | ⟨_, _, -, -, -, rfl⟩ |
    ⟨_, _, -, -, -, hexec⟩ := hop
  · exact absurd hpend (hreset rest)
  · exact hostRead_keeps_writtenFlags _ _
  · exact hostWrite_keeps_writtenFlags _ _ _
  · exact .refl _
  · exact { WrittenFlagsStay.refl _ with }
  · exact exec_keeps_writtenFlags hexec

/-- Settles O13: the flags of `WrittenFlagsStay` are the statement's. -/
theorem writtenFlagsStayUntilReset : Obligations.WrittenFlagsStayUntilReset := by
  intro s t h hreset
  obtain ⟨htile, hpal, hentry, hraw, hpix, hc15, hrgb, hent, hrvalid⟩ := step_keeps_writtenFlags h hreset
  exact ⟨htile, hpal, hentry, hraw, hpix, hc15, hrgb, hent, hrvalid⟩

end Sys2Proof.Machine
end

section
/-! PROOF of O10 and O17: a listed element's address names it when the parameters are in the ranges of 00_scope R6, and for
any parameters it names some element; a step is refused exactly where an address names none. -/

namespace Sys2Proof.Machine

/-! ### The port map -/

/-- No row of the map hides another row's elements, for parameters in their ranges (20_memory R66). -/
theorem portOf_portAddress {c : Config} {p : Port} (hc : c.wf) (hp : PortListed c p) :
    portOf c (portAddress p) = some p := by
  cases p with
  | raw i => exact portOf_raw hp rfl
  | pix k => exact portOf_pix hp rfl
  | pal a => exact portOf_pal hp rfl
  | entry e i =>
    obtain ⟨he, hi⟩ := hp
    exact portOf_entry he hi rfl
  | tile t i =>
    obtain ⟨ht, hi⟩ := hp
    exact portOf_tile hc ht hi rfl
  | rbuf j i =>
    obtain ⟨hj, hi⟩ := hp
    exact portOf_rbuf hc hj hi rfl
  | _ => rfl

/-- Settles O17: `portOf_some` is the one direction, `portOf_portAddress` the other. -/
theorem portMapListsExactlyTheseAddresses : Obligations.PortMapListsExactlyTheseAddresses := by
  intro c addr p hc
  constructor
  · exact portOf_some
  · rintro ⟨hp, rfl⟩
    exact portOf_portAddress hc hp

/-- An address the map answers nothing for is no listed element's, for any parameters: where rows overlap, the address names
an element of the first of them. -/
theorem portAddress_ne_of_portOf_eq_none {c : Config} {addr : Nat} {p : Port} (hnone : portOf c addr = none)
    (hp : PortListed c p) : portAddress p ≠ addr := by
  rintro rfl
  cases p with
  | raw i => cases (portOf_raw hp rfl).symm.trans hnone
  | pix k => cases (portOf_pix hp rfl).symm.trans hnone
  | pal a => cases (portOf_pal hp rfl).symm.trans hnone
  | entry e i =>
    obtain ⟨he, hi⟩ := hp
    cases (portOf_entry he hi rfl).symm.trans hnone
  | tile t i =>
    obtain ⟨ht, hi⟩ := hp
    simp only [portOf, Option.or_eq_none_iff] at hnone
    obtain ⟨-, -, -, -, -, htile, -⟩ := hnone
    rw [tileAt, if_pos (by simp only [portAddress]; omega)] at htile
    cases htile
  | rbuf j i =>
    obtain ⟨hj, hi⟩ := hp
    simp only [portOf, Option.or_eq_none_iff] at hnone
    obtain ⟨-, -, -, -, -, -, hrbuf⟩ := hnone
    rw [rbufAt, if_pos (by simp only [portAddress]; omega)] at hrbuf
    cases hrbuf
  | _ => cases hnone

/-! ### Accesses that answer a next state -/

/-- A CMD write answers a next state, since every command does (`exec_next`). -/
theorem cmdWrite_next (s : State) (w : Word) : ∃ t, cmdWrite s w = .next t := by
  unfold cmdWrite
  split
  · exact ⟨_, rfl⟩
  · split
    · exact exec_next _ _
    · exact ⟨_, rfl⟩

/-- A write to a listed address answers a next state, one to CMD included. -/
theorem hostOp_write_next {s : State} {addr : Nat} {w : Word} {p : Port} (hport : portOf s.cfg addr = some p) :
    ∃ t, hostOp s (.write addr w) = .next t := by
  by_cases hp : p = .cmd
  · subst hp
    obtain ⟨-, rfl⟩ := portOf_some hport
    exact cmdWrite_next s w
  · exact ⟨_, hostOp_write hport hp⟩

theorem hostOp_read_unlisted {s : State} {addr : Nat} (hport : portOf s.cfg addr = none) :
    hostOp s (.read addr) = .refused (.unlistedPort addr) := by
  simp only [hostOp, hport]

theorem hostOp_write_unlisted {s : State} {addr : Nat} {w : Word} (hport : portOf s.cfg addr = none) :
    hostOp s (.write addr w) = .refused (.unlistedPort addr) := by
  simp only [hostOp, hport]

/-- Settles O10: by the next access; a read or a write answers a next state when the map lists its address and is refused
when it does not (20_memory R67; log 9). -/
theorem stepStopsOnlyOnUnlistedPort : Obligations.StepStopsOnlyOnUnlistedPort := by
  intro s
  cases hpend : s.host.pending with
  | nil => exact .inl ⟨s, step_idle hpend⟩
  | cons op rest =>
    rw [step_pending hpend]
    cases op with
    | reset => exact .inl ⟨_, rfl⟩
    | read addr =>
      cases hport : portOf s.cfg addr with
      | some p => exact .inl ⟨_, hostOp_read hport⟩
      | none =>
        exact .inr ⟨addr, rest, .inl rfl, fun _ => portAddress_ne_of_portOf_eq_none hport, hostOp_read_unlisted hport⟩
    | write addr w =>
      cases hport : portOf s.cfg addr with
      | some p => exact .inl (hostOp_write_next hport)
      | none =>
        exact .inr ⟨addr, rest, .inr ⟨w, rfl⟩, fun _ => portAddress_ne_of_portOf_eq_none hport,
          hostOp_write_unlisted hport⟩

end Sys2Proof.Machine
end

section
/-! PROOF of O18, O19 and O22: a host write is `hostWrite` on the element its address names (`step_write`), a host read of a
written element answers the element zero-extended (`step_read_written`). -/

namespace Sys2Proof.Machine

/-! ### Writes -/

section

variable {s : State} {addr : Nat} {w : Word} {rest : List HostOp} {p : Port}

theorem step_write (hpend : s.host.pending = .write addr w :: rest) (hport : portOf s.cfg addr = some p)
    (hp : p ≠ .cmd) : step s = .next (hostWrite (afterAccess s rest) w p) := by
  rw [step_pending hpend]
  exact hostOp_write hport hp

/-- A write to a row whose element is read-only (20_memory R66). -/
theorem step_write_readOnly (hpend : s.host.pending = .write addr w :: rest) (hport : portOf s.cfg addr = some p)
    (hp : p ≠ .cmd) (hwrite : ∀ t, hostWrite t w p = t) : step s = .next (afterAccess s rest) := by
  rw [step_write hpend hport hp, hwrite]

end

/-- `read_write` with the key that is read on the left, as the statement asks for it. -/
theorem read_write_at {α : Type} (m : Memory α) (a : Nat) (v : α) (k : Nat) :
    (m.write a v).read k = if k = a then some v else m.read k :=
  (read_write m a k v).trans (if_congr eq_comm rfl rfl)

/-- CTRL.MODE is bit 0 of the word (10_state R42). -/
theorem modeOfWord_eq (w : Word) : Mode.ofWord w = if w.toNat % 2 = 1 then .indexed else .direct := by
  have hbit : w.getLsbD 0 = decide (w.toNat % 2 = 1) := by rw [BitVec.getLsbD, Nat.testBit_zero]
  simp only [Mode.ofWord, hbit, decide_eq_true_eq]

/-- R 23:16, G 15:8, B 7:0 of the word (30_encoding R90). -/
theorem rgbOfWord_eq (w : Word) : rgbOfWord w =
    { r := BitVec.ofNat 8 (w.toNat / 65536), g := BitVec.ofNat 8 (w.toNat / 256), b := BitVec.ofNat 8 w.toNat } := by
  simp only [rgbOfWord, BitVec.extractLsb', Nat.shiftRight_eq_div_pow, Nat.reducePow, Nat.div_one]

/-- Settles O18: each row's write is `hostWrite` on its element, and `read_write_at` says what the memory then holds. -/
theorem hostWriteStoresOneElement : Obligations.HostWriteStoresOneElement := by
  intro s w addr rest hcfg hpend
  refine ⟨?raw, ?pix, ?pal, ?entry, ?tile, ?ctrl, ?c15, ?rgb, ?readOnly, ?rbuf⟩
  case raw => exact fun i hi ha => ⟨_, step_write hpend (portOf_raw hi ha) nofun, read_write_at _ _ _⟩
  case pix => exact fun i hi ha => ⟨_, step_write hpend (portOf_pix hi ha) nofun, read_write_at _ _ _⟩
  case pal => exact fun a h ha => ⟨_, step_write hpend (portOf_pal h ha) nofun, read_write_at _ _ _⟩
  case entry =>
    exact fun e he i hi ha => ⟨_, step_write hpend (portOf_entry he hi ha) nofun, read_write_at _ _ _⟩
  case tile =>
    exact fun t ht i hi ha => ⟨_, step_write hpend (portOf_tile hcfg ht hi ha) nofun, read_write_at _ _ _⟩
  case ctrl =>
    rintro rfl
    rw [step_write (p := .ctrl) hpend rfl nofun, ← modeOfWord_eq]
    rfl
  case c15 =>
    rintro rfl
    exact step_write hpend rfl nofun
  case rgb =>
    rintro rfl
    rw [step_write (p := .rgb) hpend rfl nofun, ← rgbOfWord_eq]
    rfl
  case readOnly =>
    intro ha
    simp only [List.mem_cons, List.not_mem_nil, or_false] at ha
    obtain rfl | rfl | rfl | rfl | rfl | rfl := ha <;>
      exact step_write_readOnly hpend rfl nofun fun _ => rfl
  case rbuf => exact fun j hj i hi ha => step_write_readOnly hpend (portOf_rbuf hcfg hj hi ha) nofun fun _ => rfl

/-- Settles O22: PAL takes the 15 low bits of the word, so of the second byte the 7 low bits (20_memory R61). -/
theorem paletteWordTakesLowByteFirst : Obligations.PaletteWordTakesLowByteFirst := by
  intro s first second a rest ha hpend
  refine ⟨_, _, step_write hpend (portOf_pal ha rfl) nofun, read_write_same _ _ _, ?_⟩
  have hfirst := first.isLt
  rw [BitVec.toNat_setWidth, toNat_palWordOfBytes]
  omega

/-! ### Reads of written elements -/

/-- A read of an element of `width` bits whose written flag is 1. -/
theorem step_read_written {s : State} {addr width : Nat} {rest : List HostOp} {p : Port}
    (hpend : s.host.pending = .read addr :: rest) (hport : portOf s.cfg addr = some p) {v : Option (BitVec width)}
    {b : BitVec width} (hv : v = some b) (hread : hostRead (afterAccess s rest) p = (afterAccess s rest).readElement v) :
    step s = .next (withResult (afterAccess s rest) (b.setWidth 32)) := by
  subst hv
  rw [step_read hpend hport, hread]
  rfl

/-- The RGB register's 24 bits, zero-extended, as a number (30_encoding R90). -/
theorem setWidth_rgbWord (c : Rgb) : ((rgbWord c).setWidth 24).setWidth 32 =
    BitVec.ofNat 32 (65536 * c.r.toNat + 256 * c.g.toNat + c.b.toNat) := by
  apply BitVec.eq_of_toNat_eq
  have hr := c.r.isLt
  have hg := c.g.isLt
  have hb := c.b.isLt
  rw [BitVec.toNat_setWidth, BitVec.toNat_setWidth, toNat_rgbWord, BitVec.toNat_ofNat]
  omega

/-- Settles O19: every row of the map the statement names reads an element, and its written flag is 1. -/
theorem hostReadReturnsWrittenElement : Obligations.HostReadReturnsWrittenElement := by
  intro s addr rest hcfg hpend
  refine ⟨?raw, ?pix, ?pal, ?entry, ?tile, ?c15, ?rgb⟩
  case raw => exact fun i hi ha v hv => step_read_written hpend (portOf_raw hi ha) hv rfl
  case pix => exact fun k hk ha v hv => step_read_written hpend (portOf_pix hk ha) hv rfl
  case pal => exact fun a h ha v hv => step_read_written hpend (portOf_pal h ha) hv rfl
  case entry => exact fun e he i hi ha v hv => step_read_written hpend (portOf_entry he hi ha) hv rfl
  case tile => exact fun t ht i hi ha v hv => step_read_written hpend (portOf_tile hcfg ht hi ha) hv rfl
  case c15 =>
    rintro rfl hv
    exact step_read_written hpend rfl (if_pos hv) rfl
  case rgb =>
    rintro rfl hv
    rw [← setWidth_rgbWord]
    exact step_read_written hpend rfl (if_pos hv) rfl

end Sys2Proof.Machine
end

section
/-! PROOF of O1 to O4 and O8: the decoder answers a command exactly for that command's word (`decode_eq_ok_iff`), and an error
exactly for the illegal words (`illegalWord_iff_decode_error`). -/

namespace Sys2Proof.Machine

/-! ### The opcode map, in both directions -/

/-- A command has a word exactly when its operand fits the field A, which it does where there is none (30_encoding R81). -/
theorem wellFormed_iff (i : Instr) : WellFormed i = true ↔ i.operand < 65536 := by
  cases i <;> simp [WellFormed, operandFits, Instr.operand]

theorem decodeOp_opcode_operand (i : Instr) : decodeOp i.opcode i.operand = .ok i := by
  cases i <;> rfl

theorem withoutOperand_eq_ok {i j : Instr} {a : Nat} (h : withoutOperand i a = .ok j) : a = 0 ∧ i = j := by
  unfold withoutOperand at h
  split at h
  · next ha => cases h; exact ⟨ha, rfl⟩
  · cases h

theorem withoutOperand_eq_error {i : Instr} {a : Nat} {e : DecodeError} (h : withoutOperand i a = .error e) : a ≠ 0 := by
  rintro rfl
  cases h

/-- The fields the opcode map reads as a command are that command's own. -/
theorem decodeOp_eq_ok {op a : Nat} {i : Instr} (h : decodeOp op a = .ok i) : op = i.opcode ∧ a = i.operand := by
  unfold decodeOp at h
  split at h
  case h_12 => cases h
  case h_3 | h_4 | h_5 | h_7 | h_11 => cases h; exact ⟨rfl, rfl⟩
  all_goals
    obtain ⟨rfl, rfl⟩ := withoutOperand_eq_ok h
    exact ⟨rfl, rfl⟩

/-- What the opcode map rejects is illegal by 30_encoding R83 (a) or (c). -/
theorem decodeOp_eq_error {op a : Nat} {e : DecodeError} (h : decodeOp op a = .error e) :
    (op = 0 ∨ 0x0C ≤ op) ∨ (op ∈ [0x01, 0x02, 0x06, 0x08, 0x09, 0x0A] ∧ a ≠ 0) := by
  unfold decodeOp at h
  split at h
  case h_12 =>
    simp only [imp_false] at *
    omega
  case h_3 | h_4 | h_5 | h_7 | h_11 => cases h
  all_goals exact .inr ⟨by decide, withoutOperand_eq_error h⟩

/-! ### The decoder and the encoder -/

theorem decode_encode {i : Instr} (h : WellFormed i = true) : decode (encode i) = .ok i := by
  obtain ⟨hop, hrsv, ha⟩ := Laws.EncodedFields.of_toNat i h
  rw [decode, if_pos hrsv, hop, ha, decodeOp_opcode_operand]

/-- The fields OP, RSV and A are all of a word (30_encoding R80). -/
theorem encode_of_decode {w : Word} {i : Instr} (h : decode w = .ok i) : WellFormed i = true ∧ encode i = w := by
  rw [decode_by_fields] at h
  split at h
  · next hrsv =>
    obtain ⟨hop, ha⟩ := decodeOp_eq_ok h
    have hw := w.isLt
    have hwf : WellFormed i = true := (wellFormed_iff i).mpr (by omega)
    refine ⟨hwf, BitVec.eq_of_toNat_eq ?_⟩
    rw [toNat_encode hwf]
    omega
  · cases h

/-- A word decodes to the one command it is the word of. -/
theorem decode_eq_ok_iff {w : Word} {i : Instr} : decode w = .ok i ↔ WellFormed i = true ∧ encode i = w := by
  constructor
  · exact encode_of_decode
  · rintro ⟨hwf, rfl⟩
    exact decode_encode hwf

theorem not_illegalWord_encode {i : Instr} (h : WellFormed i = true) : ¬ IllegalWord (encode i) := by
  obtain ⟨hop, hrsv, ha⟩ := Laws.EncodedFields.of_toNat i h
  rw [fieldOP_eq] at hop
  rw [fieldRSV_eq] at hrsv
  rw [fieldA_eq] at ha
  rw [IllegalWord, hop, hrsv, ha]
  cases i <;> simp [Instr.opcode, Instr.operand]

/-- The decoder rejects exactly the words of 30_encoding R83. -/
theorem illegalWord_iff_decode_error {w : Word} : IllegalWord w ↔ ∃ e, decode w = .error e := by
  constructor
  · intro hill
    cases h : decode w with
    | error e => exact ⟨e, rfl⟩
    | ok i =>
      obtain ⟨hwf, rfl⟩ := encode_of_decode h
      exact absurd hill (not_illegalWord_encode hwf)
  · rintro ⟨e, h⟩
    rw [decode_by_fields] at h
    split at h
    · exact (decodeOp_eq_error h).imp_right .inr
    · next hrsv => exact .inr (.inl hrsv)

/-- A word with RSV 0 is read by its opcode and its operand field. -/
theorem decode_of_mod {w : Word} {op : Nat} (h : w.toNat % 65536 = op) (hop : op < 256) :
    decode w = decodeOp op (w.toNat / 65536) := by
  rw [decode_by_fields, if_pos (by omega), show w.toNat % 256 = op by omega]

/-! ### The statements -/

/-- Settles O1: the encoded fields are the command's opcode, 0 and its operand, and the opcode map reads these as the
command. -/
theorem decodeReadsEncodedCommand : Obligations.DecodeReadsEncodedCommand := fun _ h => decode_encode h

/-- Settles O2: by what the decoder answers; by `decode_eq_ok_iff` it would answer any other command with that word too. -/
theorem everyWordIsOneCommandOrIllegal : Obligations.EveryWordIsOneCommandOrIllegal := by
  intro w
  cases h : decode w with
  | error e => exact .inl ⟨illegalWord_iff_decode_error.mpr ⟨e, h⟩, e, rfl⟩
  | ok i =>
    obtain ⟨hwf, hw⟩ := decode_eq_ok_iff.mp h
    refine .inr ⟨hw ▸ not_illegalWord_encode hwf, i, rfl, hwf, hw, fun j hj hjw => ?_⟩
    exact Except.ok.inj ((decode_eq_ok_iff.mpr ⟨hj, hjw⟩).symm.trans h)

/-- Settles O3: with RSV 0 the opcode map decides (`decode_of_mod`). -/
theorem opcodeMapReadsOperandField : Obligations.OpcodeMapReadsOperandField := by
  refine ⟨fun w => ⟨?tld, ?tst, ?eprs, ?draw, ?comp⟩, rfl, rfl, rfl, rfl, rfl, rfl⟩
  all_goals exact fun h => decode_of_mod h (by decide)

/-- Settles O4: by running the decoder on the five words. -/
theorem wordsWrittenOutDecode : Obligations.WordsWrittenOutDecode := ⟨rfl, rfl, rfl, rfl, rfl⟩

/-- Settles O8: the decoder rejects the word, and the CMD write records it. -/
theorem illegalWordRaisesIllegalCmd : Obligations.IllegalWordRaisesIllegalCmd := by
  intro s w rest hpend hf hill
  obtain ⟨e, hd⟩ := illegalWord_iff_decode_error.mp hill
  rw [step_pending hpend, hostOp_write_cmd]
  exact cmdWrite_of_error hf hd

end Sys2Proof.Machine
end

section
/-! PROOF of O24: inside a valid raster a read of RBUF answers the cell's word, and Laws/Words.lean says which number it is. -/

namespace Sys2Proof.Machine

/-- A read of a cell inside a valid raster (20_memory R66). -/
theorem step_read_cell {s : State} {j i : Nat} {rest : List HostOp} {cell : Cell} {n : Nat} (hcfg : s.cfg.wf)
    (hpend : s.host.pending = .read (0x400000 + 0x400 * j + i) :: rest) (hj : j < 271) (hi : i < 527)
    (hin : s.status.rvalid = true ∧ i < s.raster.rw ∧ j < s.raster.rh) (hcell : s.raster.cellAt j i = cell)
    (hn : (cellWord cell).toNat = n) : step s = .next (withResult (afterAccess s rest) (BitVec.ofNat 32 n)) := by
  subst hcell
  exact step_read_word hpend (portOf_rbuf hcfg hj hi rfl) (if_pos hin) hn

/-- Settles O24: one case for each kind of cell. -/
theorem hostReadsRasterCellWords : Obligations.HostReadsRasterCellWords := by
  intro s j i rest hcfg hpend hv hh hw hj hi
  refine ⟨?empty, ?rgb, ?idx⟩
  case empty => exact fun hcell => step_read_cell hcfg hpend hj hi ⟨hv, hw, hh⟩ hcell rfl
  case rgb => exact fun c hcell => step_read_cell hcfg hpend hj hi ⟨hv, hw, hh⟩ hcell (toNat_cellWord_rgb c)
  case idx => exact fun a hcell => step_read_cell hcfg hpend hj hi ⟨hv, hw, hh⟩ hcell (toNat_cellWord_idx a)

end Sys2Proof.Machine
end

section
/-! PROOF of O5: a line is cut into its words (`wordsFrom_pair`), the second is the number its digits write
(`digitsFrom_eq_foldl`), and the command's word is `65536 * A + OP` (`encode_eq_ofNat`). -/

namespace Sys2Proof.Machine

/-! ### Cutting a line into words -/

/-- A character that neither ends a word nor begins a comment. -/
def isWordChar (c : Char) : Bool := !isBlank c && c != ';'

theorem isWordChar_iff (c : Char) : isWordChar c = true ↔ isBlank c = false ∧ c ≠ ';' := by
  simp [isWordChar]

/-- A word of a line: some characters, none a blank, none the `;` of a comment. -/
def IsLineWord (m : List Char) : Prop := m ≠ [] ∧ ∀ c ∈ m, isWordChar c = true

theorem dropComment_eq_takeWhile (l : List Char) : dropComment l = l.takeWhile (· != ';') := by
  induction l with
  | nil => rfl
  | cons c cs ih => by_cases hc : c = ';' <;> simp [dropComment, hc, ih]

theorem dropComment_append_comment (l comment : List Char) : dropComment (l ++ ';' :: comment) = dropComment l := by
  induction l with
  | nil => rfl
  | cons c cs ih => simp only [List.cons_append, dropComment, ih]

/-- The characters of a word are read into `cur`. -/
theorem wordsFrom_append {m : List Char} (h : ∀ c ∈ m, isBlank c = false) (rest cur : List Char) :
    wordsFrom (m ++ rest) cur = wordsFrom rest (m.reverse ++ cur) := by
  induction m generalizing cur with
  | nil => rfl
  | cons c cs ih =>
    obtain ⟨hc, hcs⟩ := List.forall_mem_cons.mp h
    simp [wordsFrom, hc, ih hcs]

theorem wordsFrom_nil {cur : List Char} (h : cur ≠ []) : wordsFrom [] cur = [cur.reverse] := by
  cases cur with
  | nil => exact absurd rfl h
  | cons c cs => rfl

theorem wordsFrom_blank {cur : List Char} (h : cur ≠ []) (rest : List Char) :
    wordsFrom (' ' :: rest) cur = cur.reverse :: wordsFrom rest [] := by
  cases cur with
  | nil => exact absurd rfl h
  | cons c cs => rfl

/-- A line of two words with one blank between them (log 16). -/
theorem wordsFrom_pair {m a : List Char} (hm : IsLineWord m) (ha : IsLineWord a) :
    wordsFrom (dropComment (m ++ ' ' :: a)) [] = [m, a] := by
  obtain ⟨hmne, hm⟩ := hm
  obtain ⟨hane, ha⟩ := ha
  simp only [isWordChar_iff] at hm ha
  have hcomment : dropComment (m ++ ' ' :: a) = m ++ ' ' :: (a ++ []) := by
    rw [dropComment_eq_takeWhile, List.append_nil, List.takeWhile_eq_self_iff]
    simp only [List.mem_append, List.mem_cons, bne_iff_ne]
    rintro c (hc | rfl | hc)
    · exact (hm c hc).2
    · decide
    · exact (ha c hc).2
  rw [hcomment, wordsFrom_append fun c hc => (hm c hc).1, wordsFrom_blank (by simpa using hmne),
    wordsFrom_append fun c hc => (ha c hc).1, wordsFrom_nil (by simpa using hane)]
  simp

/-! ### Numbers -/

/-- Characters `text` are digits of `base` with the values `ds`. -/
def DigitsOf (base : Nat) (text : List Char) (ds : List Nat) : Prop :=
  List.Forall₂ (fun c d => digitValue c = some d ∧ d < base) text ds

theorem digitValue_digitChar : ∀ d < 16, digitValue (Nat.digitChar d) = some d := by decide

theorem digitValue_toUpper_digitChar : ∀ d < 16, digitValue (Nat.digitChar d).toUpper = some d := by decide

theorem digitsOf_decimal {ds : List Nat} (h : ∀ d ∈ ds, d < 10) : DigitsOf 10 (ds.map Nat.digitChar) ds := by
  rw [DigitsOf, List.forall₂_map_left_iff, List.forall₂_same]
  exact fun d hd => ⟨digitValue_digitChar d (by have := h d hd; omega), h d hd⟩

/-- Hexadecimal digits, each small or capital (log 16). -/
theorem digitsOf_hexadecimal {text : List Char} {ds : List Nat} (h : ∀ d ∈ ds, d < 16)
    (htext : List.Forall₂ (fun c d => c = Nat.digitChar d ∨ c = (Nat.digitChar d).toUpper) text ds) :
    DigitsOf 16 text ds := by
  induction htext with
  | nil => exact .nil
  | cons hc _ ih =>
    obtain ⟨hd, hds⟩ := List.forall_mem_cons.mp h
    refine .cons ⟨?_, hd⟩ (ih hds)
    obtain rfl | rfl := hc
    · exact digitValue_digitChar _ hd
    · exact digitValue_toUpper_digitChar _ hd

theorem digitsFrom_eq_foldl {base : Nat} {text : List Char} {ds : List Nat} (h : DigitsOf base text ds) (acc : Nat) :
    digitsFrom base acc text = some (ds.foldl (fun a d => base * a + d) acc) := by
  induction h generalizing acc with
  | nil => rfl
  | cons hc _ ih =>
    obtain ⟨hv, hlt⟩ := hc
    simp only [digitsFrom, hv, if_pos hlt, ih, List.foldl_cons]

theorem isWordChar_of_digitValue {c : Char} {d : Nat} (h : digitValue c = some d) : isWordChar c = true := by
  refine (isWordChar_iff c).mpr ⟨?_, ?_⟩
  · by_contra hb
    simp only [isBlank, Bool.not_eq_false, Bool.or_eq_true, beq_iff_eq] at hb
    obtain rfl | rfl := hb <;> cases h
  · rintro rfl
    cases h

theorem digitValue_of_mem {base : Nat} {text : List Char} {ds : List Nat} (h : DigitsOf base text ds) :
    ∀ c ∈ text, ∃ d, digitValue c = some d := by
  induction h with
  | nil => exact nofun
  | cons hc _ ih => exact List.forall_mem_cons.mpr ⟨⟨_, hc.1⟩, ih⟩

theorem ne_nil_of_digitsOf {base : Nat} {text : List Char} {ds : List Nat} (h : DigitsOf base text ds) (hne : ds ≠ []) :
    text ≠ [] := by
  rintro rfl
  cases h
  exact hne rfl

/-- An operand in decimal: `x` is no digit, so the number is not taken for a hexadecimal one. -/
theorem parseOperand_decimal {text : List Char} {ds : List Nat} (h : DigitsOf 10 text ds) (hne : ds ≠ [])
    (hfits : ds.foldl (fun a d => 10 * a + d) 0 < 65536) :
    parseOperand text = some (ds.foldl (fun a d => 10 * a + d) 0) := by
  have hx : 'x' ∉ text := by
    intro hmem
    obtain ⟨d, hd⟩ := digitValue_of_mem h _ hmem
    cases hd
  have hvalue := digitsFrom_eq_foldl h 0
  unfold parseOperand
  split
  · exact absurd rfl (ne_nil_of_digitsOf h hne)
  · exact absurd (by simp) hx
  · exact absurd (by simp) hx
  · simp only [hvalue, operandFits, hfits, decide_true, if_true]

theorem parseOperand_hexadecimal {text : List Char} {ds : List Nat} (h : DigitsOf 16 text ds) (hne : ds ≠ [])
    (hfits : ds.foldl (fun a d => 16 * a + d) 0 < 65536) :
    parseOperand ('0' :: 'x' :: text) = some (ds.foldl (fun a d => 16 * a + d) 0) := by
  have hvalue := digitsFrom_eq_foldl h 0
  cases text with
  | nil => exact absurd rfl (ne_nil_of_digitsOf h hne)
  | cons c cs => simp only [parseOperand, hvalue, operandFits, hfits, decide_true, if_true]

theorem isLineWord_of_digitsOf {base : Nat} {text : List Char} {ds : List Nat} (h : DigitsOf base text ds)
    (hne : ds ≠ []) : IsLineWord text := by
  refine ⟨ne_nil_of_digitsOf h hne, fun c hc => ?_⟩
  obtain ⟨d, hd⟩ := digitValue_of_mem h c hc
  exact isWordChar_of_digitValue hd

theorem isLineWord_hexPrefix {text : List Char} (h : IsLineWord text) : IsLineWord ('0' :: 'x' :: text) := by
  obtain ⟨-, htext⟩ := h
  exact ⟨nofun, List.forall_mem_cons.mpr ⟨rfl, List.forall_mem_cons.mpr ⟨rfl, htext⟩⟩⟩

/-! ### Lines with an operand -/

/-- `m` is the mnemonic of a command with operand and opcode `op` (30_encoding R82, R85). -/
def IsOperandMnemonic (m : List Char) (op : Nat) : Prop :=
  IsLineWord m ∧ ∀ a, ∃ i, operandCommand m a = some i ∧ i.operand = a ∧ i.opcode = op

theorem isOperandMnemonic_of_mem {p : List Char × Nat} (h : p ∈ [(['T', 'L', 'D'], 0x03), (['T', 'S', 'T'], 0x04),
    (['E', 'P', 'R', 'S'], 0x05), (['D', 'R', 'A', 'W'], 0x07), (['C', 'O', 'M', 'P'], 0x0B)]) :
    IsOperandMnemonic p.1 p.2 := by
  simp only [List.mem_cons, List.not_mem_nil, or_false] at h
  obtain rfl | rfl | rfl | rfl | rfl := h <;> exact ⟨⟨nofun, List.all_eq_true.mp rfl⟩, fun a => ⟨_, rfl, rfl, rfl⟩⟩

theorem encode_eq_ofNat {i : Instr} (h : WellFormed i = true) :
    encode i = BitVec.ofNat 32 (65536 * i.operand + i.opcode) := by
  apply BitVec.eq_of_toNat_eq
  have ha := operand_lt h
  have hop := opcode_lt i
  rw [toNat_encode h, BitVec.toNat_ofNat]
  omega

theorem assemble_operandLine {m text : List Char} {op a : Nat} (hm : IsOperandMnemonic m op) (htext : IsLineWord text)
    (ha : parseOperand text = some a) (hfits : a < 65536) :
    assemble (m ++ ' ' :: text) = some (BitVec.ofNat 32 (65536 * a + op)) := by
  obtain ⟨hword, hcommand⟩ := hm
  obtain ⟨i, hi, rfl, rfl⟩ := hcommand a
  have hline : parseLine (m ++ ' ' :: text) = some i := by simp only [parseLine, wordsFrom_pair hword htext, ha, hi]
  rw [← encode_eq_ofNat ((wellFormed_iff i).mpr hfits), assemble, hline]

/-- Settles O5: a line with operand by `assemble_operandLine`, in decimal and in hexadecimal; a comment is dropped before the
line is cut into words. -/
theorem assemblerEmitsCommandWord : Obligations.AssemblerEmitsCommandWord := by
  refine ⟨⟨rfl, rfl, rfl, rfl, rfl, rfl⟩, fun p hp ds hne => ⟨?decimal, ?hexadecimal⟩, ?comment⟩
  case decimal =>
    intro hds hfits
    have hdigits := digitsOf_decimal hds
    exact assemble_operandLine (isOperandMnemonic_of_mem hp) (isLineWord_of_digitsOf hdigits hne)
      (parseOperand_decimal hdigits hne hfits) hfits
  case hexadecimal =>
    intro hds hfits text htext
    have hdigits := digitsOf_hexadecimal hds htext
    exact assemble_operandLine (isOperandMnemonic_of_mem hp)
      (isLineWord_hexPrefix (isLineWord_of_digitsOf hdigits hne)) (parseOperand_hexadecimal hdigits hne hfits) hfits
  case comment =>
    intro l comment
    simp only [assemble, parseLine, dropComment_append_comment]

end Sys2Proof.Machine
end

section
/-! PROOF of O25 to O30: DecodeTile and EncodeTile lane by lane, from Laws/Codec.lean (40_tile_codec R100 to R103), then
TDEC, TENC, TLD and TST, each a range write once its checks pass (R104 to R107). -/

namespace Sys2Proof.Machine

/-! ### Lanes -/

/-- The bytes of a tile that carry row `r`, one for each plane (40_tile_codec R103). -/
abbrev laneBytes (r : Nat) : List Nat := [2 * r, 2 * r + 1, 16 + 2 * r, 17 + 2 * r]

theorem mem_laneBytes {b r : Nat} : b ∈ laneBytes r ↔ b = 2 * r ∨ b = 2 * r + 1 ∨ b = 16 + 2 * r ∨ b = 17 + 2 * r := by
  simp only [List.mem_cons, List.not_mem_nil, or_false]

theorem byteRow_lt (i : Nat) : byteRow i < 8 := by
  simp only [byteRow]; omega

/-- Every byte of a tile is one of the bytes of its row. -/
theorem mem_laneBytes_byteRow {i : Nat} (hi : i < 32) : i ∈ laneBytes (byteRow i) := by
  simp only [mem_laneBytes, byteRow]; omega

theorem byteRow_of_mem_laneBytes {b r : Nat} (hr : r < 8) (hb : b ∈ laneBytes r) : byteRow b = r := by
  rw [mem_laneBytes] at hb
  simp only [byteRow]; omega

/-- A pixel's value is the weighted sum of its plane bits (40_tile_codec R100). -/
theorem toNat_decodeTile (raw : Tile) (r c : Nat) : (decodeTile raw r c).toNat =
    ((raw (2 * r)).getLsbD (7 - c)).toNat + 2 * ((raw (2 * r + 1)).getLsbD (7 - c)).toNat +
      4 * ((raw (16 + 2 * r)).getLsbD (7 - c)).toNat + 8 * ((raw (17 + 2 * r)).getLsbD (7 - c)).toNat :=
  toNat_pixelOfPlanes ..

/-- A pixel depends on its lane alone (40_tile_codec R103). -/
theorem decodeTile_eq_of_lane {raw raw' : Tile} {r c : Nat}
    (h : ∀ b ∈ laneBytes r, (raw b).getLsbD (7 - c) = (raw' b).getLsbD (7 - c)) :
    decodeTile raw r c = decodeTile raw' r c := by
  simp only [List.forall_mem_cons] at h
  obtain ⟨h0, h1, h2, h3, -⟩ := h
  simp only [decodeTile, h0, h1, h2, h3]

/-- Each bit of an encoded byte is one bit of one pixel of its row (40_tile_codec R101). -/
theorem getLsbD_encodeTile_byte (g : Grid) (b : Nat) {c : Nat} (hc : c < 8) :
    (encodeTile g b).getLsbD (7 - c) = (g (byteRow b) c).getLsbD (bytePlane b) :=
  getLsbD_packRow _ c hc

/-- A lane's bits depend on its pixel alone (40_tile_codec R103). -/
theorem getLsbD_encodeTile_eq_of_pixel {g g' : Grid} {b c : Nat} (hc : c < 8) (h : g (byteRow b) c = g' (byteRow b) c) :
    (encodeTile g b).getLsbD (7 - c) = (encodeTile g' b).getLsbD (7 - c) := by
  rw [getLsbD_encodeTile_byte g b hc, getLsbD_encodeTile_byte g' b hc, h]

/-- Settles O30: one lemma for each direction. -/
theorem tileLanesAreIndependent : Obligations.TileLanesAreIndependent := by
  refine ⟨fun _ _ _ _ _ _ h => decodeTile_eq_of_lane h, fun g g' r hr c hc h b hb => ?_⟩
  exact getLsbD_encodeTile_eq_of_pixel hc (by rw [byteRow_of_mem_laneBytes hr hb, h])

/-! ### The inverse laws -/

/-- Tiles with the same 32 bytes decode to the same grid. -/
theorem decodeTile_congr {raw raw' : Tile} (h : ∀ i < 32, raw i = raw' i) {r c : Nat} (hr : r < 8) :
    decodeTile raw r c = decodeTile raw' r c := by
  refine decodeTile_eq_of_lane fun b hb => ?_
  rw [mem_laneBytes] at hb
  rw [h b (by omega)]

/-- Grids with the same 64 pixels encode to the same tile. -/
theorem encodeTile_congr {g g' : Grid} (h : ∀ r < 8, ∀ c < 8, g r c = g' r c) (i : Nat) :
    encodeTile g i = encodeTile g' i :=
  byte_ext _ _ fun c hc => getLsbD_encodeTile_eq_of_pixel hc (h _ (byteRow_lt i) c hc)

/-- EncodeTile after DecodeTile restores every bit of a lane. -/
theorem getLsbD_encodeTile_decodeTile (raw : Tile) {r c b : Nat} (hr : r < 8) (hc : c < 8) (hb : b ∈ laneBytes r) :
    (encodeTile (decodeTile raw) b).getLsbD (7 - c) = (raw b).getLsbD (7 - c) := by
  obtain ⟨e0, e1, e2, e3⟩ := getLsbD_encodeTile (decodeTile raw) r c hr hc
  obtain ⟨d0, d1, d2, d3⟩ := getLsbD_pixelOfPlanes ((raw (2 * r)).getLsbD (7 - c)) ((raw (2 * r + 1)).getLsbD (7 - c))
    ((raw (16 + 2 * r)).getLsbD (7 - c)) ((raw (17 + 2 * r)).getLsbD (7 - c))
  rw [mem_laneBytes] at hb
  rcases hb with rfl | rfl | rfl | rfl
  exacts [e0.trans d0, e1.trans d1, e2.trans d2, e3.trans d3]

/-- EncodeTile is a left inverse of DecodeTile (40_tile_codec R102). -/
theorem encodeTile_decodeTile (raw : Tile) {i : Nat} (hi : i < 32) : encodeTile (decodeTile raw) i = raw i :=
  byte_ext _ _ fun _ hc => getLsbD_encodeTile_decodeTile raw (byteRow_lt i) hc (mem_laneBytes_byteRow hi)

/-- EncodeTile is a right inverse of DecodeTile (40_tile_codec R102). -/
theorem decodeTile_encodeTile (g : Grid) {r c : Nat} (hr : r < 8) (hc : c < 8) :
    decodeTile (encodeTile g) r c = g r c := by
  obtain ⟨h0, h1, h2, h3⟩ := getLsbD_encodeTile g r c hr hc
  rw [decodeTile, h0, h1, h2, h3, pixelOfPlanes_bits]

/-! ### Checks and range writes -/

/-- A command whose check finds a fault raises it (60_exceptions R202). -/
theorem checked_of_fault {s : State} {found : Option FaultRecord} {go : Host.Outcome State Fault Refusal} {c : Cause}
    {info : Word} (h : found = some { cause := c, info := info }) : s.checked found go = .next (withFault s c info) := by
  rw [h, checked_some, raise_eq_withFault]

/-- A command whose check finds no fault goes on. -/
theorem checked_of_none {s : State} {found : Option FaultRecord} {go : Host.Outcome State Fault Refusal}
    (h : found = none) : s.checked found go = go := by
  rw [h, checked_none]

theorem read_writeRange_inside {α : Type} (m : Memory α) (base : Nat) {n i : Nat} (f : Nat → α) (hi : i < n) :
    (m.writeRange base n f).read (base + i) = some (f i) := by
  rw [read_writeRange, if_pos (by omega), Nat.add_sub_cancel_left]

theorem read_writeRange_outside {α : Type} (m : Memory α) {base n k : Nat} (f : Nat → α) (hk : k < base ∨ base + n ≤ k) :
    (m.writeRange base n f).read k = m.read k := by
  rw [read_writeRange, if_neg (by omega)]

theorem read_writeRange_zero_inside {α : Type} (m : Memory α) {n i : Nat} (f : Nat → α) (hi : i < n) :
    (m.writeRange 0 n f).read i = some (f i) := by
  simpa only [Nat.zero_add] using read_writeRange_inside m 0 f hi

theorem read_writeRange_zero_outside {α : Type} (m : Memory α) {n k : Nat} (f : Nat → α) (hk : n ≤ k) :
    (m.writeRange 0 n f).read k = m.read k :=
  read_writeRange_outside m f (.inr (by omega))

/-- A written element of a memory that starts at 0 reads as its value. -/
theorem read_eq_value {w n a : Nat} {m : Memory (BitVec w)} (h : Written m 0 n) (ha : a < n) :
    m.read a = some (m.value a) :=
  read_of_written m a (by simpa only [Nat.zero_add] using h a ha)

/-! ### TDEC -/

/-- PIX after TDEC. -/
def decodedPix (s : State) : Memory Pixel := s.pix.writeRange 0 64 fun k => decodeTile s.rawTile (k / 8) (k % 8)

theorem exec_tdec_of_written (s : State) (h : Written s.raw 0 32) : exec .tdec s = .next (s.setPix (decodedPix s)) :=
  checked_of_none (rawFault_of_written h)

theorem read_decodedPix (s : State) {k : Nat} (hk : k < 64) :
    (decodedPix s).read k = some (decodeTile s.rawTile (k / 8) (k % 8)) :=
  read_writeRange_zero_inside _ _ hk

theorem read_decodedPix_outside (s : State) {k : Nat} (hk : 64 ≤ k) : (decodedPix s).read k = s.pix.read k :=
  read_writeRange_zero_outside _ _ hk

theorem read_decodedPix_pixel (s : State) {r c : Nat} (hr : r < 8) (hc : c < 8) :
    (decodedPix s).read (8 * r + c) = some (decodeTile s.rawTile r c) := by
  rw [read_decodedPix s (by omega), show (8 * r + c) / 8 = r by omega, show (8 * r + c) % 8 = c by omega]

theorem written_decodedPix (s : State) : Written (decodedPix s) 0 64 := by
  intro k hk
  rw [Nat.zero_add, read_decodedPix s hk]
  rfl

/-- The grid TENC reads after TDEC. -/
theorem pixGrid_decodedPix (s : State) {r c : Nat} (hr : r < 8) (hc : c < 8) :
    (s.setPix (decodedPix s)).pixGrid r c = decodeTile s.rawTile r c := by
  rw [State.pixGrid, setPix_pix]
  exact value_of_read _ _ _ (read_decodedPix_pixel s hr hc)

/-- Settles O25: the word, the check of RAW, and the range write of the decoded pixels. -/
theorem tdecDecodesRawIntoPix : Obligations.TdecDecodesRawIntoPix := by
  intro s
  refine ⟨?words, ?uninit, ?completes⟩
  case words => exact plainCommandWords_of s (fun _ => rfl) (by decide)
  case uninit => exact fun i hi => checked_of_fault (rawFault_of_lowest hi)
  case completes =>
    refine fun h => ⟨decodedPix s, exec_tdec_of_written s h, fun r hr c hc => ?_, fun k => read_decodedPix_outside s⟩
    exact ⟨_, read_decodedPix_pixel s hr hc, toNat_decodeTile s.rawTile r c⟩

/-! ### TENC -/

/-- RAW after TENC. -/
def encodedRaw (s : State) : Memory Byte := s.raw.writeRange 0 32 (encodeTile s.pixGrid)

theorem exec_tenc_of_written (s : State) (h : Written s.pix 0 64) : exec .tenc s = .next (s.setRaw (encodedRaw s)) :=
  checked_of_none (pixFault_of_written h)

theorem read_encodedRaw (s : State) {i : Nat} (hi : i < 32) : (encodedRaw s).read i = some (encodeTile s.pixGrid i) :=
  read_writeRange_zero_inside _ _ hi

theorem read_encodedRaw_outside (s : State) {k : Nat} (hk : 32 ≤ k) : (encodedRaw s).read k = s.raw.read k :=
  read_writeRange_zero_outside _ _ hk

theorem value_encodedRaw (s : State) {i : Nat} (hi : i < 32) : (encodedRaw s).value i = encodeTile s.pixGrid i :=
  value_of_read _ _ _ (read_encodedRaw s hi)

theorem written_encodedRaw (s : State) : Written (encodedRaw s) 0 32 := by
  intro i hi
  rw [Nat.zero_add, read_encodedRaw s hi]
  rfl

/-- The tile TDEC reads after TENC. -/
theorem rawTile_encodedRaw (s : State) {i : Nat} (hi : i < 32) :
    (s.setRaw (encodedRaw s)).rawTile i = encodeTile s.pixGrid i := by
  rw [State.rawTile, setRaw_raw]
  exact value_encodedRaw s hi

/-- Settles O26: the word, the check of PIX, and the range write of the encoded bytes. -/
theorem tencEncodesPixIntoRaw : Obligations.TencEncodesPixIntoRaw := by
  intro s
  refine ⟨?words, ?uninit, ?completes⟩
  case words => exact plainCommandWords_of s (fun _ => rfl) (by decide)
  case uninit => exact fun k hk => checked_of_fault (pixFault_of_lowest hk)
  case completes =>
    refine fun h => ⟨encodedRaw s, exec_tenc_of_written s h, written_encodedRaw s, fun r hr c hc => ?_,
      fun k => read_encodedRaw_outside s⟩
    rw [value_encodedRaw s (by omega), value_encodedRaw s (by omega), value_encodedRaw s (by omega),
      value_encodedRaw s (by omega)]
    exact getLsbD_encodeTile s.pixGrid r c hr hc

/-! ### TDEC and TENC in turn -/

/-- TENC after TDEC restores RAW (40_tile_codec R102). -/
theorem tenc_after_tdec {s : State} (h : Written s.raw 0 32) : ∃ t u, exec .tdec s = .next t ∧ exec .tenc t = .next u ∧
    ∀ k, u.raw.read k = s.raw.read k := by
  have hpix : Written (s.setPix (decodedPix s)).pix 0 64 := by rw [setPix_pix]; exact written_decodedPix s
  refine ⟨_, _, exec_tdec_of_written s h, exec_tenc_of_written _ hpix, fun k => ?_⟩
  rw [setRaw_raw]
  rcases Nat.lt_or_ge k 32 with hk | hk
  · calc (encodedRaw (s.setPix (decodedPix s))).read k
        = some (encodeTile (s.setPix (decodedPix s)).pixGrid k) := read_encodedRaw _ hk
      _ = some (encodeTile (decodeTile s.rawTile) k) := by
        rw [encodeTile_congr (fun r hr c hc => pixGrid_decodedPix s hr hc)]
      _ = some (s.raw.value k) := congrArg some (encodeTile_decodeTile s.rawTile hk)
      _ = s.raw.read k := (read_eq_value h hk).symm
  · rw [read_encodedRaw_outside _ hk, setPix_raw]

/-- TDEC after TENC restores PIX (40_tile_codec R102). -/
theorem tdec_after_tenc {s : State} (h : Written s.pix 0 64) : ∃ t u, exec .tenc s = .next t ∧ exec .tdec t = .next u ∧
    ∀ k, u.pix.read k = s.pix.read k := by
  have hraw : Written (s.setRaw (encodedRaw s)).raw 0 32 := by rw [setRaw_raw]; exact written_encodedRaw s
  refine ⟨_, _, exec_tenc_of_written s h, exec_tdec_of_written _ hraw, fun k => ?_⟩
  rw [setPix_pix]
  rcases Nat.lt_or_ge k 64 with hk | hk
  · have hr : k / 8 < 8 := by omega
    have hc : k % 8 < 8 := by omega
    calc (decodedPix (s.setRaw (encodedRaw s))).read k
        = some (decodeTile (s.setRaw (encodedRaw s)).rawTile (k / 8) (k % 8)) := read_decodedPix _ hk
      _ = some (decodeTile (encodeTile s.pixGrid) (k / 8) (k % 8)) := by
        rw [decodeTile_congr (fun i hi => rawTile_encodedRaw s hi) hr]
      _ = some (s.pixGrid (k / 8) (k % 8)) := congrArg some (decodeTile_encodeTile s.pixGrid hr hc)
      _ = some (s.pix.value k) := by rw [State.pixGrid, pixKey, Nat.div_add_mod]
      _ = s.pix.read k := (read_eq_value h hk).symm
  · rw [read_decodedPix_outside _ hk, setRaw_pix]

/-- Settles O29: the two inverse laws, and the two commands in either order. -/
theorem decodeAndEncodeTileAreInverse : Obligations.DecodeAndEncodeTileAreInverse :=
  ⟨fun raw _ hi => encodeTile_decodeTile raw hi, fun g _ hr _ hc => decodeTile_encodeTile g hr hc,
    fun _ h => tenc_after_tdec h, fun _ h => tdec_after_tenc h⟩

/-! ### TLD and TST -/

/-- Settles O27: the checks of TLD in order, and the range write of the slot's bytes. -/
theorem tldCopiesTileIntoRaw : Obligations.TldCopiesTileIntoRaw := by
  intro s t
  refine ⟨?words, ?range, ?missing, ?completes⟩
  case words => exact operandCommandWords_of s fun _ => rfl
  case range => exact fun ht => checked_of_fault (by rw [tileSlotFault_of_le ht, Option.some_or])
  case missing =>
    intro ht hw
    exact checked_of_fault (by rw [tileSlotFault_of_lt ht, Option.none_or, tileFault_of_not_readable fun h => hw h.2])
  case completes =>
    intro ht hw
    have hchecks : (s.tileSlotFault t).or (s.tileFault t) = none := by
      rw [tileSlotFault_of_lt ht, Option.none_or, tileFault_of_readable ⟨ht, hw⟩]
    refine ⟨_, checked_of_none hchecks, fun i hi => ?_, fun k hk => read_writeRange_zero_outside _ _ hk⟩
    rw [read_writeRange_zero_inside _ _ hi, read_of_written _ _ (hw i hi)]
    rfl

/-- Settles O28: the checks of TST in order, and the range write of the bytes of RAW. -/
theorem tstStoresRawIntoTile : Obligations.TstStoresRawIntoTile := by
  intro s t
  refine ⟨?words, ?range, ?uninit, ?completes⟩
  case words => exact operandCommandWords_of s fun _ => rfl
  case range => exact fun ht => checked_of_fault (by rw [tileSlotFault_of_le ht, Option.some_or])
  case uninit =>
    intro ht i hi
    exact checked_of_fault (by rw [tileSlotFault_of_lt ht, Option.none_or, rawFault_of_lowest hi]; rfl)
  case completes =>
    intro ht hw
    have hchecks : (s.tileSlotFault t).or s.rawFault = none := by
      rw [tileSlotFault_of_lt ht, Option.none_or, rawFault_of_written hw]
    refine ⟨_, checked_of_none hchecks, fun i hi => ?_, fun k hk => read_writeRange_outside _ _ hk⟩
    rw [read_eq_value hw hi]
    exact read_writeRange_inside s.tile (32 * t) s.rawTile hi

end Sys2Proof.Machine
end

section
/-! PROOF of O31, O32 and O33: the fields of a parsed entry as bits and as numbers (41_compositor R130, R131), EPRS as its
checks and that parse (R141), CCLR (R142). -/

namespace Sys2Proof.Machine

/-! ### Fields of a byte -/

/-- A bit of a byte as a digit of its number. -/
theorem getLsbD_eq_digit (b : Byte) (n : Nat) : b.getLsbD n = decide (b.toNat / 2 ^ n % 2 = 1) :=
  Nat.testBit_eq_decide_div_mod_eq

/-- The test of byte 1 for a big entry: bits 7, 6 and 1 together (41_compositor R130). -/
theorem bigTest_eq (b : Byte) : ((b &&& 0xC2) == 0xC2) = (b.getLsbD 7 && b.getLsbD 6 && b.getLsbD 1) := by
  revert b; decide

/-- The low seven bits of byte 2 as a number. -/
theorem toNat_and_lowSeven (b : Byte) : (b &&& 0x7F).toNat = b.toNat % 0x80 := by
  rw [BitVec.toNat_and]
  exact Nat.and_two_pow_sub_one_eq_mod b.toNat 7

/-- Bits 4:2 of byte 4, the palette of an entry, as a number. -/
theorem extract_pal_eq (b : Byte) : b.extractLsb' 2 3 = BitVec.ofNat 3 (b.toNat / 4) := by
  rw [BitVec.extractLsb', Nat.shiftRight_eq_div_pow]

/-- ParseEntry by the numbers of the five bytes (41_compositor R130). -/
theorem parseEntry_by_numbers (entry : EntryBytes) : parseEntry entry =
    { x := (entry 0).toNat - (if (entry 1).toNat % 2 = 1 then 0x100 else 0)
      y := ((entry 2).toNat % 0x80 : Nat) - (if 0x80 ≤ (entry 2).toNat then 0x80 else 0)
      big := decide ((entry 1).toNat / 0x40 = 3 ∧ (entry 1).toNat / 2 % 2 = 1)
      tile := entry 3
      pal := BitVec.ofNat 3 ((entry 4).toNat / 4)
      hf := decide ((entry 4).toNat / 0x40 % 2 = 1)
      vf := decide ((entry 4).toNat / 0x80 = 1)
      prio := decide ((entry 4).toNat / 0x20 % 2 = 1) } := by
  have h1 := (entry 1).isLt
  have h2 := (entry 2).isLt
  have h4 := (entry 4).isLt
  simp only [parseEntry, bigTest_eq, toNat_and_lowSeven, extract_pal_eq, getLsbD_eq_digit, ParsedEntry.mk.injEq,
    decide_eq_true_eq, ← Bool.decide_and, decide_eq_decide, true_and, Nat.pow_zero, Nat.div_one]
  refine ⟨?y, ?big, ?vf⟩
  case y => split <;> split <;> omega
  case big => omega
  case vf => omega

/-- Bit 0 of byte 1 above byte 0: x is the 9-bit two's complement number (41_compositor R131). -/
theorem parseEntry_x_eq_toInt (entry : EntryBytes) :
    (parseEntry entry).x = (BitVec.ofBool ((entry 1).getLsbD 0) ++ entry 0).toInt := by
  have h0 := (entry 0).isLt
  rw [parseEntry, BitVec.toInt_eq_toNat_cond, toNat_append_sum]
  cases (entry 1).getLsbD 0 with
  | false => simp only [BitVec.toNat_ofBool, Bool.toNat_false, Bool.false_eq_true, if_false]; split_ifs <;> omega
  | true => simp only [BitVec.toNat_ofBool, Bool.toNat_true]; split_ifs <;> omega

/-- Byte 2 as a two's complement number is y (41_compositor R131). -/
theorem parseEntry_y_eq_toInt (entry : EntryBytes) : (parseEntry entry).y = (entry 2).toInt := by
  have h2 := (entry 2).isLt
  rw [parseEntry_by_numbers, BitVec.toInt_eq_toNat_cond]
  dsimp only
  split <;> split <;> omega

/-- Entries alike in bits 7:2 of byte 4 and in the other bytes parse alike (41_compositor R131). -/
theorem parseEntry_congr_byte4 {entry : EntryBytes} {b : Byte}
    (h : ∀ n < 8, 2 ≤ n → b.getLsbD n = (entry 4).getLsbD n) :
    parseEntry (fun i => if i = 4 then b else entry i) = parseEntry entry := by
  have hpal : b.extractLsb' 2 3 = (entry 4).extractLsb' 2 3 := by
    refine BitVec.eq_of_getLsbD_eq fun i hi => ?_
    simp only [BitVec.getLsbD_extractLsb', h (2 + i) (by omega) (by omega)]
  have h5 := h 5 (by decide) (by decide)
  have h6 := h 6 (by decide) (by decide)
  have h7 := h 7 (by decide) (by decide)
  simp only [parseEntry, hpal, h5, h6, h7, Nat.reduceEqDiff, reduceIte]

/-- Settles O32: x, y and the ranges by the parse as numbers; of bytes 1 and 4 each field reads its own bits. -/
theorem parsedEntryRangesAndBits : Obligations.ParsedEntryRangesAndBits := by
  intro entry b
  refine ⟨parseEntry_wf entry, ⟨parseEntry_x_eq_toInt entry, parseEntry_y_eq_toInt entry⟩, ⟨rfl, ?pal⟩,
    ⟨rfl, fun h => ?x, bigTest_eq b⟩, parseEntry_congr_byte4⟩
  case pal =>
    rw [parseEntry_by_numbers]
    exact BitVec.toNat_ofNat _ _
  case x => simp only [parseEntry, h, Nat.reduceEqDiff, reduceIte]

/-! ### The checks of an entry slot -/

/-- What EPRS and DRAW check first, in order: the operand, then the bytes of the slot (41_compositor R141, R143). -/
def State.entryChecks (s : State) (e : Nat) : Option FaultRecord := (s.entrySlotFault e).or (s.entryFault e)

theorem entryChecks_of_le {s : State} {e : Nat} (he : s.cfg.nEntries ≤ e) :
    s.entryChecks e = some { cause := .operandRange, info := BitVec.ofNat 32 e } := by
  rw [State.entryChecks, entrySlotFault_of_le he, Option.some_or]

theorem entryChecks_of_lowest {s : State} {e i : Nat} (he : e < s.cfg.nEntries)
    (hi : LowestUnwritten s.entry (8 * e) 5 i) :
    s.entryChecks e = some { cause := .uninit, info := BitVec.ofNat 32 (0x010000 + 8 * e + i) } := by
  rw [State.entryChecks, entrySlotFault_of_lt he, Option.none_or, entryFault_of_lowest hi, Nat.add_assoc]
  rfl

theorem entryChecks_of_written {s : State} {e : Nat} (he : e < s.cfg.nEntries) (h : Written s.entry (8 * e) 5) :
    s.entryChecks e = none := by
  rw [State.entryChecks, entrySlotFault_of_lt he, Option.none_or, entryFault_of_written h]

/-! ### EPRS and CCLR -/

theorem exec_eprs_of_written {s : State} {e : Nat} (he : e < s.cfg.nEntries) (h : Written s.entry (8 * e) 5) :
    exec (.eprs e) s = .next (s.setEnt (parseEntry (s.entryBytes e))) :=
  checked_of_none (entryChecks_of_written he h)

/-- Settles O31: the checks of EPRS in order, and the parse of the slot's five bytes as numbers. -/
theorem eprsParsesEntry : Obligations.EprsParsesEntry := by
  intro s e
  refine ⟨?words, ?range, ?uninit, ?completes⟩
  case words => exact operandCommandWords_of s fun _ => rfl
  case range => exact fun he => checked_of_fault (entryChecks_of_le he)
  case uninit => exact fun he i hi => checked_of_fault (entryChecks_of_lowest he hi)
  case completes =>
    intro he b0 b1 b2 b3 b4 h0 h1 h2 h3 h4
    have hw : Written s.entry (8 * e) 5 := by
      intro i hi
      obtain rfl | rfl | rfl | rfl | rfl : i = 0 ∨ i = 1 ∨ i = 2 ∨ i = 3 ∨ i = 4 := by omega
      all_goals simp only [Nat.add_zero, h0, h1, h2, h3, h4, Option.isSome_some]
    have e0 : s.entryBytes e 0 = b0 := value_of_read _ _ _ h0
    have e1 : s.entryBytes e 1 = b1 := value_of_read _ _ _ h1
    have e2 : s.entryBytes e 2 = b2 := value_of_read _ _ _ h2
    have e3 : s.entryBytes e 3 = b3 := value_of_read _ _ _ h3
    have e4 : s.entryBytes e 4 = b4 := value_of_read _ _ _ h4
    rw [exec_eprs_of_written he hw, parseEntry_by_numbers, e0, e1, e2, e3, e4]
    rfl

/-- Settles O33: CCLR leaves the empty canvas. -/
theorem cclrEmptiesCanvas : Obligations.CclrEmptiesCanvas :=
  fun s => ⟨plainCommandWords_of s (fun _ => rfl) (by decide), [], rfl, read_nil⟩

end Sys2Proof.Machine
end

section
/-! PROOF of O34 and O35: drawing an entry, quadrant by quadrant, paints the mirrored block `spritePixel` (41_compositor R133
to R136); DRAW raises the first fault of its checks, then of its quadrants (R143, 60_exceptions R205). -/

namespace Sys2Proof.Machine

/-! ### One axis of an entry's square -/

/-- Where half `b` of an entry's square begins on one axis; a flip exchanges the halves (41_compositor R133). -/
def halfOrigin (big flip : Bool) (a : Int) (b : Bool) : Int := if big then a + 8 * (b ^^ flip).toNat else a

/-- Side of a big or a small square, `spriteSide` by the size alone. -/
def sideOf (big : Bool) : Nat := if big then 16 else 8

/-- Coordinate `x` lies in half `b` of the square at `a`. -/
abbrev InHalf (big flip : Bool) (a : Int) (b : Bool) (x : Int) : Prop :=
  halfOrigin big flip a b ≤ x ∧ x < halfOrigin big flip a b + 8

theorem quadOrigin_eq (e : ParsedEntry) (q : Bool × Bool) :
    quadOrigin e q = (halfOrigin e.big e.hf e.x q.1, halfOrigin e.big e.vf e.y q.2) := by
  simp only [quadOrigin, halfOrigin]
  split <;> rfl

/-- A coordinate lies in half `b` exactly when it lies in the square and the mirror of its offset in half `b`, and there
flipping its offset in the half is mirroring its offset in the square (41_compositor R134). -/
theorem inHalf_spec {big flip b : Bool} (a x : Int) (hb : b = true → big = true) :
    (InHalf big flip a b x ↔
        (a ≤ x ∧ x < a + sideOf big) ∧ mirrored flip (sideOf big) (x - a).toNat / 8 = b.toNat) ∧
      (InHalf big flip a b x →
        flipped flip (x - halfOrigin big flip a b).toNat = mirrored flip (sideOf big) (x - a).toNat % 8) := by
  have hle := Bool.toNat_le b
  simp only [InHalf, halfOrigin, sideOf, mirrored, flipped]
  cases big with
  | false =>
    obtain rfl : b = false := by simpa using hb
    cases flip <;> simp only [Bool.toNat_false, Bool.false_eq_true, if_false, if_true] <;> omega
  | true =>
    cases flip with
    | false => simp only [Bool.xor_false, Bool.false_eq_true, if_false, if_true]; omega
    | true =>
      have hnot : (!b).toNat = 1 - b.toNat := by cases b <;> rfl
      simp only [Bool.xor_true, hnot, if_true]; omega

/-- An offset inside the square has its mirror in one of the halves the square has. -/
theorem exists_half {big : Bool} (flip : Bool) {n : Nat} (hn : n < sideOf big) :
    ∃ b : Bool, (b = true → big = true) ∧ mirrored flip (sideOf big) n / 8 = b.toNat := by
  have hlt : mirrored flip (sideOf big) n < sideOf big := by
    simp only [mirrored]; split <;> omega
  cases big with
  | false => exact ⟨false, fun h => h, Nat.div_eq_of_lt hlt⟩
  | true =>
    rcases Nat.lt_or_ge (mirrored flip (sideOf true) n) 8 with h | h
    · exact ⟨false, fun _ => rfl, Nat.div_eq_of_lt h⟩
    · exact ⟨true, fun _ => rfl, Nat.div_eq_of_lt_le h hlt⟩

/-! ### An entry's square -/

/-- What entry `e` paints at `(x, y)`: `slotPaint` by the parsed entry. -/
def entryPaint (s : State) (e : ParsedEntry) (x y : Int) : Cell :=
  let px := (x - e.x).toNat
  let py := (y - e.y).toNat
  if e.x ≤ x ∧ x < e.x + spriteSide e ∧ e.y ≤ y ∧ y < e.y + spriteSide e ∧ spritePixel s e px py ≠ 0 then
    some (paintOf s e.pal (spritePixel s e px py))
  else none

theorem entryPaint_parseEntry (s : State) (k : Nat) (x y : Int) :
    entryPaint s (parseEntry (s.entryBytes k)) x y = slotPaint s k x y := rfl

/-- What quadrant `q` of an entry paints at `(x, y)`. -/
def quadPaint (s : State) (e : ParsedEntry) (q : Bool × Bool) (x y : Int) : Cell :=
  squarePaint s e (quadOrigin e q) (decodeTile (s.tileBytes (quadTile e q))) x y

/-- The mirror of the offset of `(x, y)` lies in quadrant `q` of the block (41_compositor R133). -/
abbrev ShownBy (e : ParsedEntry) (x y : Int) (q : Bool × Bool) : Prop :=
  mirrored e.hf (spriteSide e) (x - e.x).toNat / 8 = q.1.toNat ∧
    mirrored e.vf (spriteSide e) (y - e.y).toNat / 8 = q.2.toNat

theorem mem_quadrants {e : ParsedEntry} {q : Bool × Bool} :
    q ∈ quadrants e ↔ (q.1 = true → e.big = true) ∧ (q.2 = true → e.big = true) := by
  rw [quadrants]
  cases e.big with
  | false => simp [Prod.ext_iff]
  | true => revert q; decide

/-- A quadrant paints what its entry paints where it shows the pixel, and nothing elsewhere. -/
theorem quadPaint_eq {s : State} {e : ParsedEntry} {q : Bool × Bool} (hq : q ∈ quadrants e) (x y : Int) :
    quadPaint s e q x y = if ShownBy e x y q then entryPaint s e x y else none := by
  obtain ⟨hqx, hqy⟩ := mem_quadrants.mp hq
  obtain ⟨hx, hfx⟩ := inHalf_spec (flip := e.hf) e.x x hqx
  obtain ⟨hy, hfy⟩ := inHalf_spec (flip := e.vf) e.y y hqy
  have hside : spriteSide e = sideOf e.big := rfl
  simp only [quadPaint, squarePaint, quadOrigin_eq, entryPaint]
  by_cases hin : InHalf e.big e.hf e.x q.1 x ∧ InHalf e.big e.vf e.y q.2 y
  · obtain ⟨hinx, hiny⟩ := hin
    obtain ⟨hsx, hux⟩ := hx.mp hinx
    obtain ⟨hsy, huy⟩ := hy.mp hiny
    have hpix : decodeTile (s.tileBytes (quadTile e q)) (flipped e.vf (y - halfOrigin e.big e.vf e.y q.2).toNat)
        (flipped e.hf (x - halfOrigin e.big e.hf e.x q.1).toNat) =
          spritePixel s e (x - e.x).toNat (y - e.y).toNat := by
      rw [hfx hinx, hfy hiny, quadTile, ← hux, ← huy]
      rfl
    rw [hpix, if_pos (show ShownBy e x y q from ⟨hux, huy⟩)]
    simp only [hinx, hiny, hsx, hsy, hside, true_and]
  · rw [if_neg fun ⟨h1, h2, h3, h4, _⟩ => hin ⟨⟨h1, h2⟩, h3, h4⟩]
    split
    · next hshown =>
      obtain ⟨hux, huy⟩ := hshown
      rw [if_neg fun ⟨h1, h2, h3, h4, _⟩ => hin ⟨hx.mpr ⟨⟨h1, h2⟩, hux⟩, hy.mpr ⟨⟨h3, h4⟩, huy⟩⟩]
    · rfl

/-- Where an entry paints, one of its quadrants shows the pixel. -/
theorem exists_shownBy {s : State} {e : ParsedEntry} {x y : Int} (h : entryPaint s e x y ≠ none) :
    ∃ q ∈ quadrants e, ShownBy e x y q := by
  simp only [entryPaint, ne_eq, ite_eq_right_iff, reduceCtorEq, imp_false, not_not] at h
  obtain ⟨hx, hx', hy, hy', -⟩ := h
  have hside : spriteSide e = sideOf e.big := rfl
  obtain ⟨qx, hqx, hux⟩ := exists_half (big := e.big) e.hf (n := (x - e.x).toNat) (by omega)
  obtain ⟨qy, hqy, huy⟩ := exists_half (big := e.big) e.vf (n := (y - e.y).toNat) (by omega)
  exact ⟨(qx, qy), mem_quadrants.mpr ⟨hqx, hqy⟩, hux, huy⟩

/-! ### Drawing an entry that can be drawn -/

/-- Quadrants drawn one after the other paint the entry's cell wherever one of them shows it. -/
theorem runLoop_drawQuad_ok {s : State} {e : ParsedEntry} (he : e.wf) (qs : List (Bool × Bool)) (m : Memory Paint)
    (hqs : ∀ q ∈ qs, q ∈ quadrants e ∧ TileDrawable s e.pal (quadTile e q)) :
    ∃ m', runLoop (drawQuad s e) qs m = .ok m' ∧ ∀ x y, InCanvas x y → m'.read (canvasKey x y) =
      if ∃ q ∈ qs, ShownBy e x y q then (entryPaint s e x y).or (m.read (canvasKey x y))
      else m.read (canvasKey x y) := by
  induction qs generalizing m with
  | nil => exact ⟨m, rfl, by simp⟩
  | cons q qs ih =>
    obtain ⟨hq, hdrawable⟩ := hqs q List.mem_cons_self
    obtain ⟨m₁, hm₁, hread₁⟩ := drawQuad_ok he m hdrawable
    obtain ⟨m', hm', hread⟩ := ih m₁ fun q' hq' => hqs q' (List.mem_cons_of_mem _ hq')
    refine ⟨m', by rw [runLoop, hm₁]; exact hm', fun x y hxy => ?_⟩
    have hcell : m₁.read (canvasKey x y) = (quadPaint s e q x y).or (m.read (canvasKey x y)) :=
      hread₁ x y (by omega) (by omega) (by omega)
    rw [hread x y hxy, hcell, quadPaint_eq hq]
    by_cases hshown : ShownBy e x y q
    · rw [if_pos hshown, if_pos (c := ∃ q' ∈ q :: qs, _) ⟨q, List.mem_cons_self, hshown⟩, ← Option.or_assoc,
        Option.or_self, ite_self]
    · simp only [hshown, if_false, Option.none_or, List.exists_mem_cons_iff, false_or]

/-- Drawing an entry whose quadrants can be drawn paints its block and nothing else (41_compositor R135). -/
theorem drawEntry_ok {s : State} {e : ParsedEntry} (he : e.wf) (m : Memory Paint)
    (h : ∀ t ∈ spriteTiles e, TileDrawable s e.pal t) :
    ∃ m', drawEntry s e m = .ok m' ∧ ∀ x y, InCanvas x y →
      m'.read (canvasKey x y) = (entryPaint s e x y).or (m.read (canvasKey x y)) := by
  obtain ⟨m', hm', hread⟩ := runLoop_drawQuad_ok he (quadrants e) m fun q hq =>
    ⟨hq, h _ (by rw [spriteTiles_eq]; exact List.mem_map_of_mem hq)⟩
  refine ⟨m', hm', fun x y hxy => ?_⟩
  rw [hread x y hxy]
  split
  · rfl
  · next hnone =>
    have hpaint : entryPaint s e x y = none := not_not.mp fun hp => hnone (exists_shownBy hp)
    rw [hpaint, Option.none_or]

theorem drawSlot_of_written {s : State} {k : Nat} (h : Written s.entry (8 * k) 5) (m : Memory Paint) :
    drawSlot s m k = drawEntry s (parseEntry (s.entryBytes k)) m := by
  rw [drawSlot, entryFault_of_written h]

/-- A slot that can be drawn paints its block over the canvas (41_compositor R143). -/
theorem drawSlot_ok {s : State} {k : Nat} (h : SlotDrawable s k) (m : Memory Paint) :
    ∃ m', drawSlot s m k = .ok m' ∧ ∀ x y, InCanvas x y →
      m'.read (canvasKey x y) = (slotPaint s k x y).or (m.read (canvasKey x y)) := by
  obtain ⟨hw, htiles⟩ := h
  rw [drawSlot_of_written hw]
  exact drawEntry_ok (parseEntry_wf _) m htiles

/-! ### DRAW and COMP by what drawing slots answers -/

/-- What a drawing command answers: with the canvas drawn it is done, a fault is raised (60_exceptions R204). -/
def State.drawAnswer (s : State) (done : Memory Paint → State) :
    Except FaultRecord (Memory Paint) → Host.Outcome State Fault Refusal
  | .ok m => .next (done m)
  | .error f => .next (s.raiseDrawing f)

/-- DRAW is its range check, then its slot: UNINIT of the slot leaves what the checks before any write leave. -/
theorem exec_draw_eq (s : State) (e : Nat) : exec (.draw e) s =
    s.checked (s.entrySlotFault e) (s.drawAnswer s.setCanvas (drawSlot s s.canvas e)) := by
  rw [exec, execDraw, drawSlot]
  cases s.entrySlotFault e with
  | some f => rfl
  | none =>
    cases hf : s.entryFault e with
    | some f => exact congrArg Host.Outcome.next (raiseDrawing_of_uninit (entryFault_cause hf)).symm
    | none =>
      simp only [Option.or_none, checked_none]
      cases drawEntry s (parseEntry (s.entryBytes e)) s.canvas <;> rfl

/-- COMP is its range check, then its slots over an empty canvas, then the rasterisation. -/
theorem exec_comp_eq (s : State) (n : Nat) : exec (.comp n) s = s.checked (s.countFault n)
    (s.drawAnswer (fun m => (s.setCanvas m).rasterise) (runLoop (drawSlot s) (List.range n) [])) := by
  rw [exec, execComp]
  cases runLoop (drawSlot s) (List.range n) [] <;> rfl

theorem exec_draw_of_lt {s : State} {e : Nat} (he : e < s.cfg.nEntries) :
    exec (.draw e) s = s.drawAnswer s.setCanvas (drawSlot s s.canvas e) := by
  rw [exec_draw_eq, entrySlotFault_of_lt he, checked_none]

theorem exec_comp_of_le {s : State} {n : Nat} (hn : n ≤ s.cfg.nEntries) : exec (.comp n) s =
    s.drawAnswer (fun m => (s.setCanvas m).rasterise) (runLoop (drawSlot s) (List.range n) []) := by
  rw [exec_comp_eq, countFault_of_le hn, checked_none]

/-- Settles O34: the slot is drawn onto the canvas there is. -/
theorem drawPaintsMirroredBlock : Obligations.DrawPaintsMirroredBlock := by
  intro s e he h
  obtain ⟨m, hm, hread⟩ := drawSlot_ok h s.canvas
  refine ⟨m, ?_, hread⟩
  rw [exec_draw_of_lt he, hm]
  rfl

/-! ### The first fault of a drawing -/

/-- An entry whose quadrants before the one of tile `t` can be drawn raises the fault of that quadrant. -/
theorem drawEntry_first_error {s : State} {e : ParsedEntry} {before after : List Nat} {t : Nat} {f : FaultRecord}
    (hsplit : spriteTiles e = before ++ t :: after) (hbefore : ∀ u ∈ before, TileDrawable s e.pal u) (he : e.wf)
    (hfault : ∀ q m, quadTile e q = t → drawQuad s e m q = .error f) (m : Memory Paint) :
    drawEntry s e m = .error f := by
  rw [spriteTiles_eq, List.map_eq_append_iff] at hsplit
  obtain ⟨qs, rest, hquads, rfl, hrest⟩ := hsplit
  obtain ⟨q, qs', rfl, hq, -⟩ := List.map_eq_cons_iff.mp hrest
  rw [drawEntry, hquads]
  refine runLoop_first_error m (fun q' hq' c => ?_) fun c => hfault q c hq
  obtain ⟨m', hm', -⟩ := drawQuad_ok he c (hbefore _ (List.mem_map_of_mem hq'))
  exact ⟨m', hm'⟩

/-- A fault inside DrawEntry leaves an unspecified canvas and the record, and nothing else (60_exceptions R204 b). -/
theorem exists_raiseDrawing {c : Cause} (h : c = .tileMissing ∨ c = .palMissing) (s : State) (info : Word) :
    ∃ m, s.raiseDrawing { cause := c, info := info } = withFault (withLostCanvas s m) c info :=
  ⟨_, raiseDrawing_of_draw h⟩

theorem exec_draw_of_drawEntry_error {s : State} {e : Nat} {c : Cause} {info : Word} (he : e < s.cfg.nEntries)
    (hw : Written s.entry (8 * e) 5)
    (h : ∀ m, drawEntry s (parseEntry (s.entryBytes e)) m = .error { cause := c, info := info }) :
    ∃ m, exec (.draw e) s = .next (withFault (withLostCanvas s m) c info) := by
  obtain ⟨m, hm⟩ := exists_raiseDrawing (drawEntry_error_cause (h [])) s info
  exact ⟨m, by rw [exec_draw_of_lt he, drawSlot_of_written hw, h, ← hm]; rfl⟩

/-- Settles O35: the checks of DRAW in order, then the first quadrant that faults, by its tile or by its first pixel
without a palette entry. -/
theorem drawRaisesFirstFault : Obligations.DrawRaisesFirstFault := by
  intro s e
  refine ⟨?words, ?range, ?uninit, ?quads⟩
  case words => exact operandCommandWords_of s fun _ => rfl
  case range => exact fun he => checked_of_fault (entryChecks_of_le he)
  case uninit => exact fun he i hi => checked_of_fault (entryChecks_of_lowest he hi)
  case quads =>
    intro he hw before t after hsplit hbefore
    refine ⟨fun ht => ?tile, fun ht r hr c hc hpix hfirst => ?pal⟩
    case tile =>
      refine exec_draw_of_drawEntry_error he hw (drawEntry_first_error hsplit hbefore (parseEntry_wf _) ?_)
      rintro q m rfl
      exact drawQuad_tileMissing m ht
    case pal =>
      refine exec_draw_of_drawEntry_error he hw (drawEntry_first_error hsplit hbefore (parseEntry_wf _) ?_)
      rintro q m rfl
      exact drawQuad_palMissing m ht hr hc hpix hfirst

end Sys2Proof.Machine
end

section
/-! PROOF of O36 and O37: DRAW and COMP see a state only through its parameters, its canvas and what drawing each slot
answers (`DrawsAlike`); the priority bit, and in indexed mode the palette, reach none of these (41_compositor R135, R137). -/

namespace Sys2Proof.Machine

/-! ### Updates DRAW and COMP do not see -/

/-- DRAW and COMP find the same in `u s` as in `s`, and the updates they make commute with `u`. -/
structure DrawsAlike (s : State) (u : State → State) : Prop where
  cfg : (u s).cfg = s.cfg
  canvas : (u s).canvas = s.canvas
  slot (m : Memory Paint) (k : Nat) : drawSlot (u s) m k = drawSlot s m k
  setCanvas (m : Memory Paint) : (u s).setCanvas m = u (s.setCanvas m)
  rasterise (m : Memory Paint) : ((u s).setCanvas m).rasterise = u (s.setCanvas m).rasterise
  raise (f : FaultRecord) : (u s).raise f = u (s.raise f)
  raiseDrawing (f : FaultRecord) : (u s).raiseDrawing f = u (s.raiseDrawing f)

section

variable {s t : State} {u : State → State}

/-- The two commands by their shape: a check, then what drawing answers. -/
theorem DrawsAlike.checked_drawAnswer (h : DrawsAlike s u) {found : Option FaultRecord}
    {r : Except FaultRecord (Memory Paint)} {done done' : Memory Paint → State} (hdone : ∀ m, done' m = u (done m))
    (ht : s.checked found (s.drawAnswer done r) = .next t) :
    (u s).checked found ((u s).drawAnswer done' r) = .next (u t) := by
  cases found with
  | some f => cases ht; exact congrArg Host.Outcome.next (h.raise f)
  | none =>
    cases r with
    | ok m => cases ht; exact congrArg Host.Outcome.next (hdone m)
    | error f => cases ht; exact congrArg Host.Outcome.next (h.raiseDrawing f)

theorem DrawsAlike.exec_draw (h : DrawsAlike s u) {e : Nat} (ht : exec (.draw e) s = .next t) :
    exec (.draw e) (u s) = .next (u t) := by
  have hcheck : (u s).entrySlotFault e = s.entrySlotFault e := by rw [State.entrySlotFault, h.cfg]; rfl
  rw [exec_draw_eq] at ht ⊢
  rw [hcheck, h.canvas, h.slot]
  exact h.checked_drawAnswer h.setCanvas ht

theorem DrawsAlike.exec_comp (h : DrawsAlike s u) {n : Nat} (ht : exec (.comp n) s = .next t) :
    exec (.comp n) (u s) = .next (u t) := by
  have hcheck : (u s).countFault n = s.countFault n := by rw [State.countFault, h.cfg]; rfl
  have hslots : drawSlot (u s) = drawSlot s := funext₂ h.slot
  rw [exec_comp_eq] at ht ⊢
  rw [hcheck, hslots]
  exact h.checked_drawAnswer h.rasterise ht

theorem DrawsAlike.exec (h : DrawsAlike s u) {i : Instr} (hi : (∃ e, i = .draw e) ∨ ∃ n, i = .comp n)
    (ht : exec i s = .next t) : exec i (u s) = .next (u t) := by
  obtain ⟨e, rfl⟩ | ⟨n, rfl⟩ := hi
  · exact h.exec_draw ht
  · exact h.exec_comp ht

end

/-- New contents of ENTRY are not seen when every slot draws as before. -/
theorem drawsAlike_setEntry {s : State} {n : Memory Byte}
    (h : ∀ m k, drawSlot (s.setEntry n) m k = drawSlot s m k) : DrawsAlike s (fun s => s.setEntry n) where
  cfg := rfl
  canvas := rfl
  slot := h
  setCanvas _ := rfl
  rasterise _ := rfl
  raise _ := rfl
  raiseDrawing f := by obtain ⟨c, _⟩ := f; cases c <;> rfl

/-- New contents of PAL are not seen when every slot draws as before. -/
theorem drawsAlike_setPal {s : State} {p : Memory Color15}
    (h : ∀ m k, drawSlot (s.setPal p) m k = drawSlot s m k) : DrawsAlike s (fun s => s.setPal p) where
  cfg := rfl
  canvas := rfl
  slot := h
  setCanvas _ := rfl
  rasterise _ := rfl
  raise _ := rfl
  raiseDrawing f := by obtain ⟨c, _⟩ := f; cases c <;> rfl

/-! ### The priority bit -/

/-- Drawing an entry reads neither its priority bit nor ENTRY (41_compositor R137). -/
theorem drawEntry_ignores_prio (s : State) (n : Memory Byte) (e : ParsedEntry) (b : Bool) (m : Memory Paint) :
    drawEntry (s.setEntry n) { e with prio := b } m = drawEntry s e m := rfl

/-- Entries alike but for bit 5 of byte 4 parse alike but for the priority (41_compositor R130). -/
theorem parseEntry_eq_but_prio {entry entry' : EntryBytes} (h : ∀ i < 4, entry' i = entry i)
    (h4 : ∀ n < 8, n ≠ 5 → (entry' 4).getLsbD n = (entry 4).getLsbD n) :
    parseEntry entry' = { parseEntry entry with prio := (parseEntry entry').prio } := by
  have hpal : (entry' 4).extractLsb' 2 3 = (entry 4).extractLsb' 2 3 := by
    refine BitVec.eq_of_getLsbD_eq fun i hi => ?_
    simp only [BitVec.getLsbD_extractLsb', h4 (2 + i) (by omega) (by omega)]
  simp only [parseEntry, h 0 (by decide), h 1 (by decide), h 2 (by decide), h 3 (by decide), h4 6 (by decide) (by decide),
    h4 7 (by decide) (by decide), hpal]

/-- Memories with the same written flags have the same lowest unwritten element. -/
theorem firstUnwritten_congr {α : Type} {m m' : Memory α} (h : ∀ a, (m'.read a).isNone = (m.read a).isNone)
    (base n : Nat) : m'.firstUnwritten base n = m.firstUnwritten base n := by
  simp only [Memory.firstUnwritten, h]

/-- Overwriting a written element changes no written flag. -/
theorem isNone_read_overwrite {α : Type} {m : Memory α} {a : Nat} {v : α} (h : m.read a = some v) (w : α) (b : Nat) :
    ((m.write a w).read b).isNone = (m.read b).isNone := by
  rw [read_write]
  split
  · next hab => rw [← hab, h]; rfl
  · rfl

/-- The mask 0x20 flips bit 5 of a byte only. -/
theorem getLsbD_xor_prioMask (b : Byte) {n : Nat} (hlt : n < 8) (hn : n ≠ 5) :
    (b ^^^ 0x20).getLsbD n = b.getLsbD n := by
  have hmask : ∀ n < 8, n ≠ 5 → (0x20 : Byte).getLsbD n = false := by decide
  rw [BitVec.getLsbD_xor, hmask n hlt hn, Bool.xor_false]

section

variable {s : State} {k : Nat} {b : Byte}

/-- ENTRY with the priority bit of slot `k` flipped; `b` is byte 4 of the slot. -/
def flipPrio (s : State) (k : Nat) (b : Byte) : Memory Byte := s.entry.write (8 * k + 4) (b ^^^ 0x20)

theorem parseEntry_flipPrio (hb : s.entry.read (8 * k + 4) = some b) (e : Nat) :
    parseEntry ((s.setEntry (flipPrio s k b)).entryBytes e) = { parseEntry (s.entryBytes e) with
      prio := (parseEntry ((s.setEntry (flipPrio s k b)).entryBytes e)).prio } := by
  refine parseEntry_eq_but_prio (fun i hi => ?_) fun n hlt hn => ?_
  · have hkey : 8 * k + 4 ≠ entryKey e i := by rw [entryKey]; omega
    simp only [State.entryBytes, setEntry_entry, flipPrio, Memory.value, read_write_other _ _ hkey]
  · simp only [State.entryBytes, setEntry_entry, flipPrio, Memory.value, read_write]
    split
    · next hkey => rw [← hkey, hb]; exact getLsbD_xor_prioMask b hlt hn
    · rfl

/-- Every slot draws the same when a priority bit is flipped. -/
theorem drawSlot_flipPrio (hb : s.entry.read (8 * k + 4) = some b) (m : Memory Paint) (e : Nat) :
    drawSlot (s.setEntry (flipPrio s k b)) m e = drawSlot s m e := by
  have hfault : (s.setEntry (flipPrio s k b)).entryFault e = s.entryFault e := by
    rw [State.entryFault, setEntry_entry, flipPrio, firstUnwritten_congr (isNone_read_overwrite hb _)]
    rfl
  rw [drawSlot, drawSlot, hfault, parseEntry_flipPrio hb, drawEntry_ignores_prio]

end

/-- Settles O36: a flipped priority bit is an update of ENTRY that DRAW and COMP do not see. -/
theorem priorityAffectsNoCell : Obligations.PriorityAffectsNoCell :=
  fun _ _ _ _ _ hb hi ht => (drawsAlike_setEntry (drawSlot_flipPrio hb)).exec hi ht

/-! ### The palette in indexed mode -/

section

variable {s : State}

theorem drawPixel_setPal (hmode : s.mode = .indexed) (p : Memory Color15) : drawPixel (s.setPal p) = drawPixel s := by
  funext e o g m q
  simp only [drawPixel, setPal_mode, hmode, pixelPaint]

theorem drawQuad_setPal (hmode : s.mode = .indexed) (p : Memory Color15) : drawQuad (s.setPal p) = drawQuad s := by
  funext e m q
  rw [drawQuad, drawPixel_setPal hmode]
  rfl

theorem drawSlot_setPal (hmode : s.mode = .indexed) (p : Memory Color15) (m : Memory Paint) (k : Nat) :
    drawSlot (s.setPal p) m k = drawSlot s m k := by
  simp only [drawSlot, drawEntry, drawQuad_setPal hmode]
  rfl

/-- In indexed mode the only fault of a quadrant is its tile's. -/
theorem drawQuad_indexed_error {e : ParsedEntry} {q : Bool × Bool} {m : Memory Paint} {f : FaultRecord}
    (hmode : s.mode = .indexed) (h : drawQuad s e m q = .error f) : f.cause = .tileMissing := by
  by_cases hread : TileReadable s (quadTile e q)
  · simp only [drawQuad, tileFault_of_readable hread] at h
    obtain ⟨m', hm'⟩ := runLoop_ok m fun p (_ : p ∈ tilePixels) c =>
      ⟨_, drawPixel_ok (e := e) (t := quadTile e q) (quadOrigin e q) c (.inl hmode : PixelPaintable s e.pal _ p.1 p.2)⟩
    rw [hm'] at h
    cases h
  · rw [drawQuad_tileMissing m hread] at h
    cases h
    rfl

theorem drawSlot_indexed_error {m : Memory Paint} {k : Nat} {f : FaultRecord} (hmode : s.mode = .indexed)
    (h : drawSlot s m k = .error f) : f.cause ≠ .palMissing := by
  rw [drawSlot] at h
  split at h
  · next hf => cases h; rw [entryFault_cause hf]; decide
  · refine runLoop_error (fun f => f.cause ≠ .palMissing) (fun q _ c f' hd => ?_) h
    rw [drawQuad_indexed_error hmode hd]
    decide

/-- A cause that neither a drawing command's check nor its drawing raises is not recorded by the command. -/
theorem checked_drawAnswer_not_cause {t : State} {found : Option FaultRecord} {r : Except FaultRecord (Memory Paint)}
    {done : Memory Paint → State} {c : Cause} (h : s.checked found (s.drawAnswer done r) = .next t)
    (hdone : ∀ m, (done m).status.cause = s.status.cause) (hfound : ∀ f, found = some f → f.cause ≠ c)
    (hr : ∀ f, r = .error f → f.cause ≠ c) (hs : s.status.cause ≠ some c) : t.status.cause ≠ some c := by
  cases found with
  | some f => cases h; exact fun hc => hfound f rfl (Option.some.inj hc)
  | none =>
    cases r with
    | ok m => cases h; rwa [hdone]
    | error f => cases h; rw [raiseDrawing_status]; exact fun hc => hr f rfl (Option.some.inj hc)

theorem entrySlotFault_cause {e : Nat} {f : FaultRecord} (h : s.entrySlotFault e = some f) :
    f.cause = .operandRange := by
  rw [State.entrySlotFault] at h
  split at h <;> cases h
  rfl

theorem countFault_cause {n : Nat} {f : FaultRecord} (h : s.countFault n = some f) : f.cause = .operandRange := by
  rw [State.countFault] at h
  split at h <;> cases h
  rfl

/-- In indexed mode DRAW and COMP record no PAL_MISSING (42_palette R185). -/
theorem exec_indexed_no_palMissing {t : State} {i : Instr} (hmode : s.mode = .indexed)
    (hi : (∃ e, i = .draw e) ∨ ∃ n, i = .comp n) (h : exec i s = .next t) (hs : s.status.cause ≠ some .palMissing) :
    t.status.cause ≠ some .palMissing := by
  obtain ⟨e, rfl⟩ | ⟨n, rfl⟩ := hi
  · rw [exec_draw_eq] at h
    refine checked_drawAnswer_not_cause h (fun _ => rfl) (fun f hf => ?_) (fun f => drawSlot_indexed_error hmode) hs
    rw [entrySlotFault_cause hf]; decide
  · rw [exec_comp_eq] at h
    refine checked_drawAnswer_not_cause h (fun _ => rfl) (fun f hf => ?_)
      (fun f => runLoop_error (fun f : FaultRecord => f.cause ≠ .palMissing)
        fun _ _ _ _ => drawSlot_indexed_error hmode) hs
    rw [countFault_cause hf]; decide

end

/-- Settles O37: in indexed mode other contents of PAL are an update DRAW and COMP do not see. -/
theorem indexedDrawingReadsNoPalette : Obligations.IndexedDrawingReadsNoPalette :=
  fun _ _ p _ hmode hi ht =>
    ⟨(drawsAlike_setPal (drawSlot_setPal hmode p)).exec hi ht, exec_indexed_no_palMissing hmode hi ht⟩

end Sys2Proof.Machine
end

section
/-! PROOF of O38: the bounds of the raster are those of the painted positions and the origin (41_compositor R139), its cells
those of the canvas over that box (R140). -/

namespace Sys2Proof.Machine

section

variable {s : State}

/-- A position of the canvas that is not EMPTY is listed under its key (10_state R32; log 13). -/
theorem exists_mem_of_painted {x y : Int} (h : s.canvasAt x y ≠ none) : ∃ p ∈ s.canvas, p.1 = canvasKey x y := by
  obtain ⟨paint, hp⟩ := Option.ne_none_iff_exists'.mp h
  exact ⟨_, mem_of_read _ _ _ hp, rfl⟩

/-- A listed key is a position of the canvas that is not EMPTY. -/
theorem painted_of_mem (hm : canvasWf s.canvas) {p : Nat × Paint} (hp : p ∈ s.canvas) :
    InCanvas (keyX p.1) (keyY p.1) ∧ s.canvasAt (keyX p.1) (keyY p.1) ≠ none := by
  obtain ⟨hwf, hkeys⟩ := hm
  refine ⟨inCanvas_key (hkeys p hp), ?_⟩
  rw [State.canvasAt, canvasKey_key, read_of_mem _ hwf p hp]
  exact Option.some_ne_none _

/-- The box holds every painted position. -/
theorem painted_in_box {x y : Int} (hxy : InCanvas x y) (h : s.canvasAt x y ≠ none) :
    minX s.canvas ≤ x ∧ x ≤ maxX s.canvas ∧ minY s.canvas ≤ y ∧ y ≤ maxY s.canvas := by
  obtain ⟨p, hp, hkey⟩ := exists_mem_of_painted h
  have hx : keyX p.1 = x := by rw [hkey]; exact keyX_canvasKey (by omega) (by omega)
  have hy : keyY p.1 = y := by rw [hkey]; exact keyY_canvasKey (by omega) (by omega)
  obtain ⟨-, hminX, -⟩ := minX_spec s.canvas
  obtain ⟨-, hmaxX, -⟩ := maxX_spec s.canvas
  obtain ⟨-, hminY, -⟩ := minY_spec s.canvas
  obtain ⟨-, hmaxY, -⟩ := maxY_spec s.canvas
  subst hx hy
  exact ⟨hminX p hp, hmaxX p hp, hminY p hp, hmaxY p hp⟩

/-- A bound on x that is 0 or some listed key's is 0 or reached by a painted position. -/
theorem reachedX_of_mem (hm : canvasWf s.canvas) {b : Int} (h : b = 0 ∨ ∃ p ∈ s.canvas, b = keyX p.1) :
    b = 0 ∨ ∃ y, InCanvas b y ∧ s.canvasAt b y ≠ none := by
  obtain h | ⟨p, hp, rfl⟩ := h
  · exact .inl h
  · exact .inr ⟨keyY p.1, painted_of_mem hm hp⟩

/-- A bound on y that is 0 or some listed key's is 0 or reached by a painted position. -/
theorem reachedY_of_mem (hm : canvasWf s.canvas) {b : Int} (h : b = 0 ∨ ∃ p ∈ s.canvas, b = keyY p.1) :
    b = 0 ∨ ∃ x, InCanvas x b ∧ s.canvasAt x b ≠ none := by
  obtain h | ⟨p, hp, rfl⟩ := h
  · exact .inl h
  · exact .inr ⟨keyX p.1, painted_of_mem hm hp⟩

end

/-- Sizes and origin of the raster as the integers of 41_compositor R139. -/
theorem rasterOf_sizes (m : Memory Paint) :
    ((rasterOf m).rw : Int) = maxX m - minX m + 1 ∧ ((rasterOf m).rh : Int) = maxY m - minY m + 1 ∧
      ((rasterOf m).orgX : Int) = -minX m ∧ ((rasterOf m).orgY : Int) = -minY m := by
  obtain ⟨hx0, -⟩ := minX_spec m
  obtain ⟨hx1, -⟩ := maxX_spec m
  obtain ⟨hy0, -⟩ := minY_spec m
  obtain ⟨hy1, -⟩ := maxY_spec m
  simp only [rasterOf]
  omega

/-- Settles O38: the four bounds are the folds over the painted positions, which start at the origin. -/
theorem rastCopiesBoundingBox : Obligations.RastCopiesBoundingBox := by
  refine ⟨fun s => plainCommandWords_of s (fun _ => rfl) (by decide), fun s hm => ?_⟩
  obtain ⟨hx0, -, hx0r⟩ := minX_spec s.canvas
  obtain ⟨hx1, -, hx1r⟩ := maxX_spec s.canvas
  obtain ⟨hy0, -, hy0r⟩ := minY_spec s.canvas
  obtain ⟨hy1, -, hy1r⟩ := maxY_spec s.canvas
  obtain ⟨⟨hw, hw', hh, hh'⟩, ⟨hox, -, hoy, -⟩, -⟩ := rasterOf_wf hm
  have hsizes := rasterOf_sizes s.canvas
  exact ⟨rasterOf s.canvas, minX s.canvas, maxX s.canvas, minY s.canvas, maxY s.canvas, rfl, ⟨hx0, hx1, hy0, hy1⟩,
    fun _ _ => painted_in_box, reachedX_of_mem hm hx0r, reachedX_of_mem hm hx1r, reachedY_of_mem hm hy0r,
    reachedY_of_mem hm hy1r, hsizes, fun j _ i _ => cellAt_rasterOf s.canvas (by omega) (by omega) j i,
    hw, hw', hh, hh', hox, hoy⟩

end Sys2Proof.Machine
end

section
/-! PROOF of O39, O40 and O41: COMP as the loop of `drawSlot` over an empty canvas; its canvas when every slot can be drawn,
the same loop run command by command, and its first fault (41_compositor R145). -/

namespace Sys2Proof.Machine

/-! ### Slots that can all be drawn -/

/-- Slots drawn one after the other over an empty canvas leave the highest one that paints (41_compositor R136). -/
theorem runLoop_drawSlot_ok {s : State} (n : Nat) (h : ∀ k < n, SlotDrawable s k) :
    ∃ m, runLoop (drawSlot s) (List.range n) [] = .ok m ∧
      ∀ x y, InCanvas x y → m.read (canvasKey x y) = composedCell s n x y := by
  induction n with
  | zero => exact ⟨[], rfl, fun _ _ _ => rfl⟩
  | succ n ih =>
    obtain ⟨m, hm, hread⟩ := ih fun k hk => h k (Nat.lt_succ_of_lt hk)
    obtain ⟨m', hm', hread'⟩ := drawSlot_ok (h n (Nat.lt_succ_self n)) m
    refine ⟨m', ?_, fun x y hxy => ?_⟩
    · rw [List.range_succ, runLoop_append, hm]
      simp only [runLoop, hm']
    · rw [hread' x y hxy, hread x y hxy, composedCell]

/-- Settles O39: the loop completes, and what COMP and RAST do with its canvas is the same rasterisation. -/
theorem compPaintsHighestSlot : Obligations.CompPaintsHighestSlot := by
  intro s n hn h
  obtain ⟨m, hm, hread⟩ := runLoop_drawSlot_ok n h
  refine ⟨m, rasterOf m, ?_, rfl, hread⟩
  rw [exec_comp_of_le hn, hm]
  rfl

/-! ### Command by command -/

/-- Drawing a slot does not read CANVAS: the canvas it draws on is its argument. -/
theorem drawSlot_setCanvas (s : State) (m : Memory Paint) : drawSlot (s.setCanvas m) = drawSlot s := rfl

section

variable {s t : State} {i : Instr}

theorem performAll_cons_of_completed (is : List Instr) (h : exec i s = .next t) (ht : t.status.fault = false) :
    performAll (i :: is) s = performAll is t := by
  simp only [performAll, h, ht, Bool.false_eq_true, if_false]

theorem performAll_cons_of_fault (is : List Instr) (h : exec i s = .next t) (ht : t.status.fault = true) :
    performAll (i :: is) s = .next t := by
  simp only [performAll, h, ht, if_true]

end

/-- One DRAW of such a sequence, when its slot is drawn. -/
theorem exec_draw_setCanvas_of_ok {s : State} {k : Nat} {m m' : Memory Paint} (hk : k < s.cfg.nEntries)
    (hd : drawSlot s m k = .ok m') : exec (.draw k) (s.setCanvas m) = .next (s.setCanvas m') := by
  rw [exec_draw_of_lt (s := s.setCanvas m) hk, drawSlot_setCanvas, setCanvas_canvas, hd]
  rfl

/-- One DRAW of such a sequence, when its slot raises a fault. -/
theorem exec_draw_setCanvas_of_error {s : State} {k : Nat} {m : Memory Paint} {f : FaultRecord}
    (hk : k < s.cfg.nEntries) (hd : drawSlot s m k = .error f) :
    exec (.draw k) (s.setCanvas m) = .next ((s.setCanvas m).raiseDrawing f) := by
  rw [exec_draw_of_lt (s := s.setCanvas m) hk, drawSlot_setCanvas, setCanvas_canvas, hd]
  rfl

section

variable {s : State} {slots : List Nat} {m : Memory Paint} (hs : s.status.fault = false)
  (hslots : ∀ k ∈ slots, k < s.cfg.nEntries)

include hs hslots

/-- DRAW commands, then RAST, when the loop over their slots completes. -/
theorem performAll_draws_of_ok {m' : Memory Paint} (h : runLoop (drawSlot s) slots m = .ok m') :
    performAll (slots.map Instr.draw ++ [.rast]) (s.setCanvas m) = .next (s.setCanvas m').rasterise := by
  induction slots generalizing m with
  | nil => cases h; exact performAll_cons_of_completed [] rfl hs
  | cons k slots ih =>
    have hk : k < s.cfg.nEntries := hslots k List.mem_cons_self
    cases hd : drawSlot s m k with
    | error f => simp only [runLoop, hd, reduceCtorEq] at h
    | ok m₁ =>
      simp only [runLoop, hd] at h
      have hexec := exec_draw_setCanvas_of_ok hk hd
      exact (performAll_cons_of_completed _ hexec hs).trans (ih (fun k' hk' => hslots k' (List.mem_cons_of_mem _ hk')) h)

/-- DRAW commands, then RAST, when the loop over their slots raises a fault: the first one ends them (60_exceptions R208). -/
theorem performAll_draws_of_error {f : FaultRecord} (h : runLoop (drawSlot s) slots m = .error f) :
    ∃ t, performAll (slots.map Instr.draw ++ [.rast]) (s.setCanvas m) = .next t ∧ t.status.fault = true := by
  induction slots generalizing m with
  | nil => cases h
  | cons k slots ih =>
    have hk : k < s.cfg.nEntries := hslots k List.mem_cons_self
    cases hd : drawSlot s m k with
    | error g =>
      have hexec := exec_draw_setCanvas_of_error hk hd
      have hfault : ((s.setCanvas m).raiseDrawing g).status.fault = true := by rw [raiseDrawing_status]
      exact ⟨_, performAll_cons_of_fault _ hexec hfault, hfault⟩
    | ok m₁ =>
      simp only [runLoop, hd] at h
      have hexec := exec_draw_setCanvas_of_ok hk hd
      obtain ⟨t, ht, hfault⟩ := ih (fun k' hk' => hslots k' (List.mem_cons_of_mem _ hk')) h
      exact ⟨t, (performAll_cons_of_completed _ hexec hs).trans ht, hfault⟩

end

/-- Settles O40: when the loop over the slots completes both ways end in the same state, and when it raises a fault both
end in faulted states. -/
theorem compEqualsCommandByCommand : Obligations.CompEqualsCommandByCommand := by
  intro s t n hn hs ht
  have hslots : ∀ k ∈ List.range n, k < s.cfg.nEntries := fun k hk => Nat.lt_of_lt_of_le (List.mem_range.mp hk) hn
  have hclear : performAll (.cclr :: drawCommands n ++ [.rast]) s =
      performAll ((List.range n).map Instr.draw ++ [.rast]) (s.setCanvas []) :=
    performAll_cons_of_completed _ rfl hs
  rw [exec_comp_of_le hn, hclear]
  cases hloop : runLoop (drawSlot s) (List.range n) [] with
  | ok m =>
    rw [performAll_draws_of_ok hs hslots hloop]
    rfl
  | error f =>
    obtain ⟨u, hu, hfault⟩ := performAll_draws_of_error hs hslots hloop
    rw [hu]
    constructor
    · intro h
      cases h
      rw [raiseDrawing_status] at ht
      cases ht
    · intro h
      cases h
      rw [hfault] at ht
      cases ht

/-! ### The first fault of a composition -/

/-- A loop whose body raises its faults whatever it has built so far does so too. -/
theorem runLoop_error_of_any {α β ε : Type} {body : β → α → Except ε β} {as : List α} {b : β} {e : ε}
    (h : runLoop body as b = .error e) (hbody : ∀ a b b' e, body b a = .error e → body b' a = .error e) (b' : β) :
    runLoop body as b' = .error e := by
  induction as generalizing b b' with
  | nil => cases h
  | cons a as ih =>
    simp only [runLoop] at h ⊢
    cases hb : body b a with
    | error e' =>
      rw [hb] at h
      cases h
      rw [hbody a b b' e hb]
    | ok c =>
      rw [hb] at h
      cases hb' : body b' a with
      | error e' => rw [hbody a b' b e' hb'] at hb; cases hb
      | ok c' => exact ih h c'

section

variable {s : State}

/-! Whether drawing raises a fault, and which, does not depend on the canvas drawn on. -/

theorem drawPixel_error_of_any {e : ParsedEntry} {o : Int × Int} {g : Grid} {p : Nat × Nat} {m : Memory Paint}
    {f : FaultRecord} (m' : Memory Paint) (h : drawPixel s e o g m p = .error f) : drawPixel s e o g m' p = .error f := by
  simp only [drawPixel] at h ⊢
  split at h
  · cases h
  · next hv =>
    rw [if_neg hv]
    cases hp : pixelPaint s.mode s.pal e.pal (g p.1 p.2) with
    | ok paint => rw [hp] at h; cases h
    | error f' => rw [hp] at h; exact h

theorem drawQuad_error_of_any {e : ParsedEntry} {q : Bool × Bool} {m : Memory Paint} {f : FaultRecord}
    (m' : Memory Paint) (h : drawQuad s e m q = .error f) : drawQuad s e m' q = .error f := by
  cases ht : s.tileFault (quadTile e q) with
  | some f' => simp only [drawQuad, ht] at h ⊢; exact h
  | none =>
    simp only [drawQuad, ht] at h ⊢
    exact runLoop_error_of_any h (fun _ _ c _ => drawPixel_error_of_any c) m'

theorem drawSlot_error_of_any {k : Nat} {m : Memory Paint} {f : FaultRecord} (m' : Memory Paint)
    (h : drawSlot s m k = .error f) : drawSlot s m' k = .error f := by
  cases hf : s.entryFault k with
  | some f' => simp only [drawSlot, hf] at h ⊢; exact h
  | none =>
    simp only [drawSlot, hf] at h ⊢
    exact runLoop_error_of_any h (fun _ _ c _ => drawQuad_error_of_any c) m'

end

/-- The slots of a composition before slot `e`, then `e`, then the others. -/
theorem range_split {e n : Nat} (h : e < n) : ∃ rest, List.range n = List.range e ++ e :: rest := by
  obtain ⟨d, rfl⟩ := Nat.exists_eq_add_of_lt h
  exact ⟨_, by rw [Nat.add_assoc, List.range_add, List.range_succ_eq_map, List.map_cons, Nat.add_zero]⟩

/-- COMP raises the fault of the first slot that cannot be drawn (41_compositor R145; log 8). -/
theorem exec_comp_of_slot_error {s : State} {n e : Nat} {m : Memory Paint} {f : FaultRecord} (hn : n ≤ s.cfg.nEntries)
    (he : e < n) (hbefore : ∀ k < e, SlotDrawable s k) (h : drawSlot s m e = .error f) :
    exec (.comp n) s = .next (s.raiseDrawing f) := by
  obtain ⟨rest, hrange⟩ := range_split he
  have hloop : runLoop (drawSlot s) (List.range n) [] = .error f := by
    rw [hrange]
    refine runLoop_first_error [] (fun k hk c => ?_) fun c => drawSlot_error_of_any c h
    obtain ⟨m', hm', -⟩ := drawSlot_ok (hbefore k (List.mem_range.mp hk)) c
    exact ⟨m', hm'⟩
  rw [exec_comp_of_le hn, hloop]
  rfl

/-- A DRAW in range that leaves an unfaulted PTC faulted raised its slot's fault. -/
theorem drawSlot_error_of_exec_draw {s t : State} {e : Nat} (he : e < s.cfg.nEntries) (hs : s.status.fault = false)
    (h : exec (.draw e) s = .next t) (ht : t.status.fault = true) :
    ∃ f, drawSlot s s.canvas e = .error f ∧ t = s.raiseDrawing f := by
  rw [exec_draw_of_lt he] at h
  cases hd : drawSlot s s.canvas e with
  | ok m =>
    rw [hd] at h
    cases h
    rw [setCanvas_status, hs] at ht
    cases ht
  | error f =>
    rw [hd] at h
    cases h
    exact ⟨f, rfl, rfl⟩

/-- Settles O41: the range check, then the first slot whose DRAW faults, whose fault COMP raises by its cause. -/
theorem compRaisesFirstFaultOfItsEntries : Obligations.CompRaisesFirstFaultOfItsEntries := by
  intro s n
  refine ⟨?words, ?range, ?slots⟩
  case words => exact operandCommandWords_of s fun _ => rfl
  case range => exact fun hn => checked_of_fault (countFault_of_lt hn)
  case slots =>
    intro hn e he hbefore t c hs ht hfault hcause
    obtain ⟨⟨c', info⟩, hd, rfl⟩ := drawSlot_error_of_exec_draw (Nat.lt_of_lt_of_le he hn) hs ht hfault
    obtain rfl : c' = c := by rw [raiseDrawing_status] at hcause; exact Option.some.inj hcause
    rw [raiseDrawing_finfo, exec_comp_of_slot_error hn he hbefore hd]
    refine ⟨?uninit, fun hc => ?drawing⟩
    case uninit => rintro rfl; rfl
    case drawing =>
      have hdraw : c' = .tileMissing ∨ c' = .palMissing := by
        obtain h | h | h := drawSlot_error_cause hd
        · exact .inl h
        · exact .inr h
        · exact absurd h hc
      obtain ⟨m, hm⟩ := exists_raiseDrawing hdraw s info
      exact ⟨hdraw, m, congrArg Host.Outcome.next hm⟩

end Sys2Proof.Machine
end

section
/-! PROOF of O42, O43 and O44: Color15ToRGB and the shift form of RGBTo15 as numbers (42_palette R180, R182), from which
follow CV15 and CV24, each a register write once its check passes (R186, R187), and the round-trip laws (R181, R183). -/

namespace Sys2Proof.Machine

/-! ### The conversions as numbers -/

theorem toNat_scaleChannel (c : BitVec 5) : (scaleChannel c).toNat = 8 * c.toNat := by
  have hc := c.isLt
  simp only [scaleChannel, BitVec.toNat_mul, BitVec.toNat_setWidth, BitVec.reduceToNat]
  omega

theorem toNat_color15ToRgb_r (c : Color15) : (color15ToRgb c).r.toNat = 8 * (c.toNat % 32) := by
  rw [color15ToRgb, toNat_scaleChannel, BitVec.extractLsb'_toNat, Nat.shiftRight_eq_div_pow]
  omega

theorem toNat_color15ToRgb_g (c : Color15) : (color15ToRgb c).g.toNat = 8 * (c.toNat / 32 % 32) := by
  rw [color15ToRgb, toNat_scaleChannel, BitVec.extractLsb'_toNat, Nat.shiftRight_eq_div_pow]

/-- The topmost field has no bits above it. -/
theorem toNat_color15ToRgb_b (c : Color15) : (color15ToRgb c).b.toNat = 8 * (c.toNat / 1024) := by
  have hc := c.isLt
  rw [color15ToRgb, toNat_scaleChannel, BitVec.extractLsb'_toNat, Nat.shiftRight_eq_div_pow]
  omega

/-- A field above the bits of `x` is added by its weight. -/
theorem toNat_or_shiftLeft {w n : Nat} {x y : BitVec w} (hx : x.toNat < 2 ^ n) (hy : 2 ^ n * y.toNat < 2 ^ w) :
    (x ||| y <<< n).toNat = x.toNat + 2 ^ n * y.toNat := by
  rw [BitVec.toNat_or, BitVec.toNat_shiftLeft, Nat.shiftLeft_eq, Nat.mul_comm y.toNat, Nat.mod_eq_of_lt hy, Nat.or_comm,
    ← Nat.two_pow_add_eq_or_of_lt hx, Nat.add_comm]

/-- The high five bits of a channel as a number. -/
theorem toNat_shiftedChannel (b : Byte) : ((b >>> 3).setWidth 15).toNat = b.toNat / 8 := by
  have hb := b.isLt
  rw [BitVec.toNat_setWidth, BitVec.toNat_ushiftRight, Nat.shiftRight_eq_div_pow]
  omega

/-- The shift form sets its three fields side by side (42_palette R182). -/
theorem toNat_rgbTo15Shift (c : Rgb) :
    (rgbTo15Shift c).toNat = c.r.toNat / 8 + 32 * (c.g.toNat / 8) + 1024 * (c.b.toNat / 8) := by
  have hr := toNat_shiftedChannel c.r
  have hg := toNat_shiftedChannel c.g
  have hb := toNat_shiftedChannel c.b
  have hlow : ((c.r >>> 3).setWidth 15 ||| (c.g >>> 3).setWidth 15 <<< 5).toNat =
      c.r.toNat / 8 + 32 * (c.g.toNat / 8) := by
    rw [toNat_or_shiftLeft] <;> omega
  rw [rgbTo15Shift, toNat_or_shiftLeft] <;> omega

/-- Triplets with the same three numbers are equal. -/
theorem rgb_eq_of_toNat {c d : Rgb} (hr : c.r.toNat = d.r.toNat) (hg : c.g.toNat = d.g.toNat)
    (hb : c.b.toNat = d.b.toNat) : c = d := by
  obtain ⟨r, g, b⟩ := c
  obtain ⟨r', g', b'⟩ := d
  rw [Rgb.mk.injEq]
  exact ⟨BitVec.eq_of_toNat_eq hr, BitVec.eq_of_toNat_eq hg, BitVec.eq_of_toNat_eq hb⟩

/-- Color15ToRGB by the number of the colour (42_palette R180). -/
theorem color15ToRgb_by_number (c : Color15) : color15ToRgb c =
    { r := BitVec.ofNat 8 (c.toNat % 32 * 8)
      g := BitVec.ofNat 8 (c.toNat / 32 % 32 * 8)
      b := BitVec.ofNat 8 (c.toNat / 1024 * 8) } := by
  have hc := c.isLt
  refine rgb_eq_of_toNat ?r ?g ?b
  case r => rw [toNat_color15ToRgb_r, BitVec.toNat_ofNat]; omega
  case g => rw [toNat_color15ToRgb_g, BitVec.toNat_ofNat]; omega
  case b => rw [toNat_color15ToRgb_b, BitVec.toNat_ofNat]; omega

/-- The shift form by the numbers of the channels (42_palette R182). -/
theorem rgbTo15Shift_by_numbers (c : Rgb) : rgbTo15Shift c =
    BitVec.ofNat 15 (c.r.toNat / 8 + 32 * (c.g.toNat / 8) + 1024 * (c.b.toNat / 8)) := by
  rw [← toNat_rgbTo15Shift, BitVec.ofNat_toNat, BitVec.setWidth_eq]

/-! ### CV15 and CV24 -/

theorem c15Fault_of_unwritten {s : State} (h : s.c15V = false) :
    s.c15Fault = some { cause := .uninit, info := 0x000004 } := by
  rw [State.c15Fault, h]; rfl

theorem rgbFault_of_unwritten {s : State} (h : s.rgbV = false) :
    s.rgbFault = some { cause := .uninit, info := 0x000005 } := by
  rw [State.rgbFault, h]; rfl

theorem exec_cv15_of_written {s : State} (h : s.c15V = true) :
    exec .cv15 s = .next (s.setRgb (color15ToRgb s.c15)) :=
  checked_of_none (if_pos h)

theorem exec_cv24_of_written {s : State} (h : s.rgbV = true) :
    exec .cv24 s = .next (s.setC15 (rgbTo15 s.cfg.rgbTo15 s.rgb)) :=
  checked_of_none (if_pos h)

/-- Settles O42: the word, the check of C15, and the write of RGB. -/
theorem cv15ScalesChannels : Obligations.Cv15ScalesChannels := by
  intro s
  refine ⟨?words, ?uninit, ?completes⟩
  case words => exact plainCommandWords_of s (fun _ => rfl) (by decide)
  case uninit => exact fun h => checked_of_fault (c15Fault_of_unwritten h)
  case completes =>
    intro h
    rw [exec_cv15_of_written h, color15ToRgb_by_number]
    rfl

/-- Settles O43: the word, the check of RGB, and the write of C15 by either form of the parameter. -/
theorem cv24ConvertsTriplet : Obligations.Cv24ConvertsTriplet := by
  intro s
  refine ⟨?words, ?uninit, ?shift, ?supplied⟩
  case words => exact plainCommandWords_of s (fun _ => rfl) (by decide)
  case uninit => exact fun h => checked_of_fault (rgbFault_of_unwritten h)
  case shift =>
    intro h hform
    rw [exec_cv24_of_written h, hform, rgbTo15, rgbTo15Shift_by_numbers]
    rfl
  case supplied =>
    intro h hform
    rw [exec_cv24_of_written h, hform]
    rfl

/-! ### The round-trip laws -/

/-- RGBTo15 is a left inverse of Color15ToRGB (42_palette R183). -/
theorem rgbTo15Shift_color15ToRgb (c : Color15) : rgbTo15Shift (color15ToRgb c) = c := by
  apply BitVec.eq_of_toNat_eq
  rw [toNat_rgbTo15Shift, toNat_color15ToRgb_r, toNat_color15ToRgb_g, toNat_color15ToRgb_b]
  omega

theorem color15ToRgb_injective : Function.Injective color15ToRgb :=
  Function.LeftInverse.injective rgbTo15Shift_color15ToRgb

/-- A channel without its low three bits. -/
theorem toNat_and_highFive (b : Byte) : (b &&& 0xF8).toNat = 8 * (b.toNat / 8) := by
  revert b; decide

/-- Color15ToRGB of RGBTo15 clears the low three bits of each channel (42_palette R183). -/
theorem color15ToRgb_rgbTo15Shift (c : Rgb) :
    color15ToRgb (rgbTo15Shift c) = { r := c.r &&& 0xF8, g := c.g &&& 0xF8, b := c.b &&& 0xF8 } := by
  have hr := c.r.isLt
  have hg := c.g.isLt
  refine rgb_eq_of_toNat ?r ?g ?b
  case r => rw [toNat_color15ToRgb_r, toNat_rgbTo15Shift, toNat_and_highFive]; omega
  case g => rw [toNat_color15ToRgb_g, toNat_rgbTo15Shift, toNat_and_highFive]; omega
  case b => rw [toNat_color15ToRgb_b, toNat_rgbTo15Shift, toNat_and_highFive]; omega

/-- Every channel of Color15ToRGB is a multiple of 8 (42_palette R181). -/
theorem color15ToRgb_mod_eight (c : Color15) : (color15ToRgb c).r.toNat % 8 = 0 ∧
    (color15ToRgb c).g.toNat % 8 = 0 ∧ (color15ToRgb c).b.toNat % 8 = 0 := by
  rw [toNat_color15ToRgb_r, toNat_color15ToRgb_g, toNat_color15ToRgb_b]
  exact ⟨Nat.mul_mod_right .., Nat.mul_mod_right .., Nat.mul_mod_right ..⟩

/-- With the shift form CV24 after CV15 restores C15 (42_palette R183). -/
theorem cv24_after_cv15 {s : State} (h : s.c15V = true) (hform : s.cfg.rgbTo15 = .shift) :
    ∃ t u, exec .cv15 s = .next t ∧ exec .cv24 t = .next u ∧ u.c15 = s.c15 := by
  refine ⟨_, _, exec_cv15_of_written h, exec_cv24_of_written (setRgb_rgbV ..), ?_⟩
  rw [setC15_c15, setRgb_cfg, setRgb_rgb, hform]
  exact rgbTo15Shift_color15ToRgb s.c15

/-- Settles O44: the two inverse laws, what follows from them, and the two commands in turn. -/
theorem colourConversionsRoundTrip : Obligations.ColourConversionsRoundTrip :=
  ⟨rgbTo15Shift_color15ToRgb, fun _ _ _ => color15ToRgb_rgbTo15Shift _, fun _ _ h => color15ToRgb_injective h,
    color15ToRgb_mod_eight, fun _ => cv24_after_cv15⟩

end Sys2Proof.Machine
end

section
/-! PROOF of O9 and O12: a host access other than a CMD write neither changes the fault record nor, but for reads of STATUS
and FINFO, depends on it, so that it commutes with `withFault` (60_exceptions R208); a CMD write while faulted is ignored, so that reset
alone leaves the faulted state (R207). -/

namespace Sys2Proof.Machine

/-! ### Host accesses and the fault record -/

/-- A host write works on a PTC with a fault record as on the same PTC without it (60_exceptions R208). -/
theorem hostWrite_withFault (s : State) (c : Cause) (info w : Word) (p : Port) :
    hostWrite (withFault s c info) w p = withFault (hostWrite s w p) c info := by
  cases p <;> rfl

theorem readElement_withFault {width : Nat} (s : State) (c : Cause) (info : Word) (v : Option (BitVec width)) :
    (withFault s c info).readElement v = withFault (s.readElement v) c info := by
  cases v <;> rfl

/-- A read whose answer is valid or free by a condition, under a fault record. -/
theorem readIf_withFault (s : State) (c : Cause) (info w mask : Word) (valid : Prop) [Decidable valid] :
    (if valid then (withFault s c info).readAs w else (withFault s c info).readFree mask) =
      withFault (if valid then s.readAs w else s.readFree mask) c info := by
  split <;> rfl

/-- A host read of any element but STATUS and FINFO works on a PTC with a fault record as on the same PTC without it
(60_exceptions R208). -/
theorem hostRead_withFault (s : State) (c : Cause) (info : Word) {p : Port} (hstatus : p ≠ .status)
    (hfinfo : p ≠ .finfo) : hostRead (withFault s c info) p = withFault (hostRead s p) c info := by
  cases p with
  | status => exact absurd rfl hstatus
  | finfo => exact absurd rfl hfinfo
  | cmd | ctrl => rfl
  | c15 | rgb | raw | pix | pal | entry | tile => exact readElement_withFault s c info _
  | ent0 | ent1 | rsize | rorg | rbuf => exact readIf_withFault s c info _ _ _

theorem hostWrite_status (s : State) (w : Word) (p : Port) : (hostWrite s w p).status = s.status := by
  cases p <;> rfl

theorem hostWrite_finfo (s : State) (w : Word) (p : Port) : (hostWrite s w p).finfo = s.finfo := by
  cases p <;> rfl

/-! ### Steps -/

section

variable {s t : State} {addr : Nat} {w : Word} {rest : List HostOp}

/-- A step with a host write that is no CMD write wrote the element the address names. -/
theorem step_write_inv (hpend : s.host.pending = .write addr w :: rest) (haddr : addr ≠ 0x000000)
    (h : step s = .next t) :
    ∃ p, portOf s.cfg addr = some p ∧ p ≠ .cmd ∧ t = hostWrite (afterAccess s rest) w p := by
  cases hport : portOf s.cfg addr with
  | none =>
    rw [step_pending hpend, hostOp_write_unlisted (s := afterAccess s rest) hport] at h
    cases h
  | some p =>
    obtain ⟨-, rfl⟩ := portOf_some hport
    have hp : p ≠ .cmd := by rintro rfl; exact haddr rfl
    rw [step_write hpend hport hp] at h
    cases h
    exact ⟨p, rfl, hp, rfl⟩

/-- A step with a host read read the element the address names. -/
theorem step_read_inv (hpend : s.host.pending = .read addr :: rest) (h : step s = .next t) :
    ∃ p, portOf s.cfg addr = some p ∧ t = hostRead (afterAccess s rest) p := by
  cases hport : portOf s.cfg addr with
  | none =>
    rw [step_pending hpend, hostOp_read_unlisted (s := afterAccess s rest) hport] at h
    cases h
  | some p =>
    rw [step_read hpend hport] at h
    cases h
    exact ⟨p, rfl, rfl⟩

/-- A CMD write to a faulted PTC is ignored (60_exceptions R208). -/
theorem step_cmdWrite_of_fault (hpend : s.host.pending = .write 0x000000 w :: rest) (hf : s.status.fault = true) :
    step s = .next (afterAccess s rest) := by
  rw [step_pending hpend, hostOp_write_cmd]
  exact if_pos hf

/-- STATUS reads the record's code with FAULT and RVALID (10_state R41). -/
theorem toNat_statusWord_withFault (s : State) (c : Cause) (info : Word) :
    (withFault s c info).status.word.toNat = 1 + 2 * s.status.rvalid.toNat + 256 * c.code.toNat :=
  toNat_statusWord _

end

/-- Settles O9: a CMD write by the test of FAULT; any other access reaches the element its address names, whatever the
record, and commutes with `withFault`. -/
theorem faultedPtcIgnoresCommandsOnly : Obligations.FaultedPtcIgnoresCommandsOnly := by
  refine ⟨?cmd, ?write, ?read⟩
  case cmd => exact fun s w rest hpend hf => step_cmdWrite_of_fault hpend hf
  case write =>
    intro s t c info w addr rest hpend haddr h
    obtain ⟨p, hport, hp, rfl⟩ := step_write_inv hpend haddr h
    rw [← hostWrite_withFault]
    exact step_write hpend hport hp
  case read =>
    intro s t c info addr rest hpend h
    refine ⟨fun hstatus hfinfo => ?other, ?status, ?finfo⟩
    case other =>
      obtain ⟨p, hport, rfl⟩ := step_read_inv hpend h
      obtain ⟨-, rfl⟩ := portOf_some hport
      rw [← hostRead_withFault _ _ _ (by rintro rfl; exact hstatus rfl) (by rintro rfl; exact hfinfo rfl)]
      exact step_read hpend hport
    case status =>
      rintro rfl
      exact step_read_word (p := .status) hpend rfl rfl (toNat_statusWord_withFault s c info)
    case finfo =>
      rintro rfl
      exact step_read (p := .finfo) hpend rfl

/-- Settles O12: of the cases of a step from a faulted state, an idle step, a read, a write of an element and an ignored CMD
write keep the record; reset is the other case. -/
theorem onlyResetLeavesFaultedState : Obligations.OnlyResetLeavesFaultedState := by
  intro s t h hf
  obtain ⟨-, rfl⟩ | ⟨_, rest, hpend, hop⟩ := step_cases h
  · exact .inr ⟨hf, rfl, rfl⟩
  obtain ⟨rfl, -⟩ | ⟨_, p, -, -, rfl⟩ | ⟨_, w, p, -, -, -, rfl⟩ | ⟨_, -, -, rfl⟩ | ⟨_, _, -, hidle, -⟩ |
    ⟨_, _, -, hidle, -⟩ := hop
  · exact .inl ⟨rest, hpend⟩
  · obtain ⟨_, _, heq, -⟩ := hostRead_frame (afterAccess s rest) p
    rw [heq]
    exact .inr ⟨hf, rfl, rfl⟩
  · rw [hostWrite_status, hostWrite_finfo]
    exact .inr ⟨hf, rfl, rfl⟩
  · exact .inr ⟨hf, rfl, rfl⟩
  · exact absurd (hf.symm.trans hidle) nofun
  · exact absurd (hf.symm.trans hidle) nofun

end Sys2Proof.Machine
end

section
/-! PROOF of O15 and O16: `CommandFault` says once which fault a command can raise (60_exceptions R200), `CommandEnd` how a
command ends: without a fault, or with such a fault raised (R204). Both statements are read off these two. -/

namespace Sys2Proof.Machine

/-- The commands that run DrawEntry (41_compositor R143, R145). -/
abbrev DrawsEntries (i : Instr) : Prop := (∃ e, i = .draw e) ∨ ∃ n, i = .comp n

/-- The faults command `i` can raise in `s`, by cause, with what FINFO then names (60_exceptions R200, R203). -/
inductive CommandFault (s : State) : Instr → FaultRecord → Prop
  | operandRange (i : Instr) : CommandFault s i { cause := .operandRange, info := BitVec.ofNat 32 i.operand }
  | loadedTile {t : Nat} (ht : t < s.cfg.nTiles) (hread : ¬ TileReadable s t) :
      CommandFault s (.tld t) { cause := .tileMissing, info := BitVec.ofNat 32 t }
  | drawnTile {i : Instr} {t : Nat} (hi : DrawsEntries i) (hread : ¬ TileReadable s t) (ht : t ≤ 0x110) :
      CommandFault s i { cause := .tileMissing, info := BitVec.ofNat 32 t }
  | palette {i : Instr} {a : Nat} (hi : DrawsEntries i) (hmode : s.mode = .direct) (hread : s.pal.read a = none)
      (ha : a ≤ 127) (hzero : a % 16 ≠ 0) : CommandFault s i (palFault a)
  | unwritten (i : Instr) (p : Port) (hlisted : PortListed s.cfg p) (hread : ElementUnwritten s p) :
      CommandFault s i (uninitAt (portAddress p))

/-- How command `i` ends: without a fault, FINFO as before, or with one of its faults raised, for DRAW and COMP as drawing
raises it. -/
inductive CommandEnd (s : State) (i : Instr) : State → Prop
  | completed {t : State} (hfault : t.status.fault = s.status.fault) (hfinfo : t.finfo = s.finfo) : CommandEnd s i t
  | raised {f : FaultRecord} (hf : CommandFault s i f) : CommandEnd s i (s.raise f)
  | raisedDrawing {f : FaultRecord} (hi : DrawsEntries i) (hf : CommandFault s i f) : CommandEnd s i (s.raiseDrawing f)

/-! ### What the checks find -/

section

variable {s : State} {i : Instr} {f : FaultRecord}

/-- A check of the operand against a parameter finds OPERAND_RANGE with the operand. -/
theorem commandFault_of_rangeCheck (i : Instr) {outside : Prop} [Decidable outside]
    (h : (if outside then some { cause := .operandRange, info := BitVec.ofNat 32 i.operand } else none) = some f) :
    CommandFault s i f := by
  obtain ⟨-, hf⟩ := Option.ite_none_right_eq_some.mp h
  cases hf
  exact .operandRange i

/-- A check of written flags finds UNINIT with the port address of an unwritten element, when `port` lists the elements
`base ..` of the memory. -/
theorem commandFault_of_firstUnwritten {α : Type} {m : Memory α} {base n : Nat} {addr : Nat → Nat} (port : Nat → Port)
    (h : (m.firstUnwritten base n).map (fun j => uninitAt (addr j)) = some f)
    (haddr : ∀ j, addr j = portAddress (port j)) (hlisted : ∀ j < n, PortListed s.cfg (port j))
    (hread : ∀ j, m.read (base + j) = none → ElementUnwritten s (port j)) : CommandFault s i f := by
  obtain ⟨j, hj, rfl⟩ := Option.map_eq_some_iff.mp h
  obtain ⟨hlt, hnone, -⟩ := (firstUnwritten_eq_some m base n j).mp hj
  rw [haddr]
  exact .unwritten i (port j) (hlisted j hlt) (hread j hnone)

theorem commandFault_of_rawFault (h : s.rawFault = some f) : CommandFault s i f :=
  commandFault_of_firstUnwritten .raw h (fun _ => rfl) (fun _ hj => hj) fun j hj => by rwa [Nat.zero_add] at hj

theorem commandFault_of_pixFault (h : s.pixFault = some f) : CommandFault s i f :=
  commandFault_of_firstUnwritten .pix h (fun _ => rfl) (fun _ hj => hj) fun j hj => by rwa [Nat.zero_add] at hj

theorem commandFault_of_entryFault {e : Nat} (he : e < s.cfg.nEntries) (h : s.entryFault e = some f) :
    CommandFault s i f :=
  commandFault_of_firstUnwritten (.entry e) h (fun j => (Nat.add_assoc 0x010000 (8 * e) j).symm)
    (fun _ hj => ⟨he, hj⟩) fun _ hj => hj

theorem commandFault_of_c15Fault (h : s.c15Fault = some f) : CommandFault s i f := by
  obtain ⟨hv, hf⟩ := Option.ite_none_left_eq_some.mp h
  cases hf
  exact .unwritten i .c15 trivial (Bool.eq_false_iff.mpr hv)

theorem commandFault_of_rgbFault (h : s.rgbFault = some f) : CommandFault s i f := by
  obtain ⟨hv, hf⟩ := Option.ite_none_left_eq_some.mp h
  cases hf
  exact .unwritten i .rgb trivial (Bool.eq_false_iff.mpr hv)

theorem lt_of_entrySlotFault_eq_none {e : Nat} (h : s.entrySlotFault e = none) : e < s.cfg.nEntries := by
  by_contra hn
  rw [entrySlotFault_of_le (Nat.not_lt.mp hn)] at h
  cases h

theorem le_of_countFault_eq_none {n : Nat} (h : s.countFault n = none) : n ≤ s.cfg.nEntries := by
  by_contra hn
  rw [countFault_of_lt (Nat.not_le.mp hn)] at h
  cases h

/-- TileRead finds TILE_MISSING with the index of a tile that cannot be read (41_compositor R132). -/
theorem tileFault_eq_some {t : Nat} (h : s.tileFault t = some f) :
    ¬ TileReadable s t ∧ f = { cause := .tileMissing, info := BitVec.ofNat 32 t } := by
  have hread : ¬ TileReadable s t := fun hr => by rw [tileFault_of_readable hr] at h; cases h
  rw [tileFault_of_not_readable hread] at h
  cases h
  exact ⟨hread, rfl⟩

/-! ### What drawing raises -/

/-- The tile index of a quadrant does not wrap: at most 0xFF + 1 + 0x10 (41_compositor R133). -/
theorem quadTile_le (e : ParsedEntry) (q : Bool × Bool) : quadTile e q ≤ 0x110 := by
  have htile := e.tile.isLt
  have hx := Bool.toNat_le q.1
  have hy := Bool.toNat_le q.2
  rw [quadTile]
  omega

/-- A pixel raises PAL_MISSING, in direct mode, with its palette address: its value is not 0, so the address is none of
the multiples of 16 (42_palette R184, R185). -/
theorem commandFault_of_drawPixel (hi : DrawsEntries i) {e : ParsedEntry} {o : Int × Int} {t : Nat} {p : Nat × Nat}
    {m : Memory Paint} (h : drawPixel s e o (decodeTile (s.tileBytes t)) m p = .error f) : CommandFault s i f := by
  obtain ⟨r, c⟩ := p
  have hpaint : ¬ PixelPaintable s e.pal t r c := fun hp => by rw [drawPixel_ok o m hp] at h; cases h
  rw [drawPixel_error o m hpaint] at h
  cases h
  simp only [PixelPaintable, not_or, Option.not_isSome_iff_eq_none] at hpaint
  obtain ⟨hindexed, hzero, hread⟩ := hpaint
  have hmode : s.mode = .direct := by cases hm : s.mode; exacts [rfl, absurd hm hindexed]
  have hv : (decodeTile (s.tileBytes t) r c).toNat ≠ 0 := fun h0 => hzero (BitVec.eq_of_toNat_eq h0)
  have hlt := (decodeTile (s.tileBytes t) r c).isLt
  have hpal := e.pal.isLt
  exact .palette hi hmode hread (by omega) (by omega)

theorem commandFault_of_drawQuad (hi : DrawsEntries i) {e : ParsedEntry} {q : Bool × Bool} {m : Memory Paint}
    (h : drawQuad s e m q = .error f) : CommandFault s i f := by
  rw [drawQuad] at h
  split at h
  · next ht =>
    cases h
    obtain ⟨hread, rfl⟩ := tileFault_eq_some ht
    exact .drawnTile hi hread (quadTile_le e q)
  · refine runLoop_error (CommandFault s i) (fun _ _ _ _ hd => ?_) h
    exact commandFault_of_drawPixel hi hd

theorem commandFault_of_drawSlot (hi : DrawsEntries i) {k : Nat} (hk : k < s.cfg.nEntries) {m : Memory Paint}
    (h : drawSlot s m k = .error f) : CommandFault s i f := by
  rw [drawSlot] at h
  split at h
  · next he => cases h; exact commandFault_of_entryFault hk he
  · exact runLoop_error (CommandFault s i) (fun _ _ _ _ => commandFault_of_drawQuad hi) h

/-! ### How a command ends -/

/-- A command that is a check, then an update that leaves STATUS and FINFO. -/
theorem commandEnd_of_checked {t u : State} {found : Option FaultRecord} (h : s.checked found (.next u) = .next t)
    (hstatus : u.status = s.status) (hfinfo : u.finfo = s.finfo)
    (hfound : ∀ f, found = some f → CommandFault s i f) : CommandEnd s i t := by
  obtain ⟨f, hf, rfl⟩ | ⟨-, hu⟩ := checked_cases h
  · exact .raised (hfound f hf)
  · cases hu
    exact .completed (congrArg Status.fault hstatus) hfinfo

/-- A command that is a check, then the drawing of some slots. -/
theorem commandEnd_of_drawing (hi : DrawsEntries i) {t : State} {found : Option FaultRecord}
    {r : Except FaultRecord (Memory Paint)} {done : Memory Paint → State}
    (h : s.checked found (s.drawAnswer done r) = .next t)
    (hdone : ∀ m, (done m).status.fault = s.status.fault ∧ (done m).finfo = s.finfo)
    (hfound : ∀ f, found = some f → CommandFault s i f)
    (hr : found = none → ∀ f, r = .error f → CommandFault s i f) : CommandEnd s i t := by
  obtain ⟨f, hf, rfl⟩ | ⟨hnone, ht⟩ := checked_cases h
  · exact .raised (hfound f hf)
  · cases r with
    | ok m =>
      cases ht
      obtain ⟨hfault, hfinfo⟩ := hdone m
      exact .completed hfault hfinfo
    | error f =>
      cases ht
      exact .raisedDrawing hi (hr hnone f rfl)

/-- Every command ends in one of the ways of `CommandEnd`. -/
theorem exec_commandEnd {t : State} (h : exec i s = .next t) : CommandEnd s i t := by
  cases i with
  | tdec => exact commandEnd_of_checked h (setPix_status ..) (setPix_finfo ..) fun _ => commandFault_of_rawFault
  | tenc => exact commandEnd_of_checked h (setRaw_status ..) (setRaw_finfo ..) fun _ => commandFault_of_pixFault
  | tld n =>
    refine commandEnd_of_checked h (setRaw_status ..) (setRaw_finfo ..) fun f hf => ?_
    obtain hf | ⟨hn, hf⟩ := Option.or_eq_some_iff.mp hf
    · exact commandFault_of_rangeCheck (.tld n) hf
    · obtain ⟨hread, rfl⟩ := tileFault_eq_some hf
      exact .loadedTile ((tileSlotFault_eq_none s n).mp hn) hread
  | tst n =>
    refine commandEnd_of_checked h (setTile_status ..) (setTile_finfo ..) fun f hf => ?_
    obtain hf | ⟨-, hf⟩ := Option.or_eq_some_iff.mp hf
    · exact commandFault_of_rangeCheck (.tst n) hf
    · exact commandFault_of_rawFault hf
  | eprs e =>
    refine commandEnd_of_checked h (setEnt_status ..) (setEnt_finfo ..) fun f hf => ?_
    obtain hf | ⟨he, hf⟩ := Option.or_eq_some_iff.mp hf
    · exact commandFault_of_rangeCheck (.eprs e) hf
    · exact commandFault_of_entryFault (lt_of_entrySlotFault_eq_none he) hf
  | cclr => cases h; exact .completed rfl rfl
  | draw e =>
    have hi : DrawsEntries (.draw e) := .inl ⟨e, rfl⟩
    rw [exec_draw_eq] at h
    refine commandEnd_of_drawing hi h (fun _ => ⟨rfl, rfl⟩) (fun _ => commandFault_of_rangeCheck (.draw e)) ?_
    exact fun he _ => commandFault_of_drawSlot hi (lt_of_entrySlotFault_eq_none he)
  | rast => cases h; exact .completed rfl rfl
  | cv15 => exact commandEnd_of_checked h (setRgb_status ..) (setRgb_finfo ..) fun _ => commandFault_of_c15Fault
  | cv24 => exact commandEnd_of_checked h (setC15_status ..) (setC15_finfo ..) fun _ => commandFault_of_rgbFault
  | comp n =>
    have hi : DrawsEntries (.comp n) := .inr ⟨n, rfl⟩
    rw [exec_comp_eq] at h
    refine commandEnd_of_drawing hi h (fun _ => ⟨rfl, rfl⟩) (fun _ => commandFault_of_rangeCheck (.comp n)) ?_
    intro hn f hloop
    refine runLoop_error (CommandFault s (.comp n)) (fun k hk _ _ hd => ?_) hloop
    exact commandFault_of_drawSlot hi (Nat.lt_of_lt_of_le (List.mem_range.mp hk) (le_of_countFault_eq_none hn)) hd

end

/-! ### The statements -/

/-- A fault of drawing leaves all but the record, or loses CANVAS as well for TILE_MISSING and PAL_MISSING
(60_exceptions R204). -/
theorem raiseDrawing_cases (s : State) (f : FaultRecord) : s.raiseDrawing f = withFault s f.cause f.info ∨
    ((f.cause = .tileMissing ∨ f.cause = .palMissing) ∧
      s.raiseDrawing f = withFault (withLostCanvas s s.loseCanvas.canvas) f.cause f.info) := by
  obtain ⟨c, info⟩ := f
  cases c with
  | tileMissing => exact .inr ⟨.inl rfl, rfl⟩
  | palMissing => exact .inr ⟨.inr rfl, rfl⟩
  | illegalCmd | operandRange | uninit => exact .inl rfl

/-- Settles O15: of the ends of a command only those that raise a fault leave an unfaulted PTC faulted; the lost canvas is a
canvas (`canvasOfPositions_wf`). -/
theorem faultingCommandLeavesOtherState : Obligations.FaultingCommandLeavesOtherState := by
  intro i s t hs h ht
  cases exec_commandEnd h with
  | completed hfault => rw [hfault, hs] at ht; cases ht
  | @raised f => exact ⟨f.cause, f.info, .inl rfl⟩
  | @raisedDrawing f hi =>
    refine ⟨f.cause, f.info, ?_⟩
    obtain heq | ⟨hcause, heq⟩ := raiseDrawing_cases s f
    · exact .inl heq
    · exact .inr ⟨_, canvasOfPositions_wf _, heq, hi, hcause⟩

/-- A command leaves FINFO, or ends faulted with a record it can raise (60_exceptions R202). -/
theorem exec_finfo_or_record {i : Instr} {s t : State} (h : exec i s = .next t) :
    (t.status.fault = s.status.fault ∧ t.finfo = s.finfo) ∨
      ∃ f, CommandFault s i f ∧ t.status.fault = true ∧ t.status.cause = some f.cause ∧ t.finfo = f.info := by
  cases exec_commandEnd h with
  | completed hfault hfinfo => exact .inl ⟨hfault, hfinfo⟩
  | @raised f hf => exact .inr ⟨f, hf, rfl, rfl, rfl⟩
  | @raisedDrawing f _ hf =>
    rw [raiseDrawing_status, raiseDrawing_finfo]
    exact .inr ⟨f, hf, rfl, rfl, rfl⟩

/-- Settles O16: the record of a command that faults is one of `CommandFault`, constructor by constructor one of the
statement's cases. -/
theorem faultInfoNamesWhatIsMissing : Obligations.FaultInfoNamesWhatIsMissing := by
  intro i s t hs h
  obtain ⟨hfault, hfinfo⟩ | ⟨f, hf, hfault, hcause, hfinfo⟩ := exec_finfo_or_record h
  · exact ⟨fun _ => hfinfo, fun ht => absurd (ht.symm.trans (hfault.trans hs)) nofun⟩
  · refine ⟨fun ht => absurd (hfault.symm.trans ht) nofun, fun _ => ?_⟩
    rw [hcause, hfinfo]
    cases hf with
    | operandRange => exact .inl ⟨rfl, rfl⟩
    | loadedTile ht hread => exact .inr (.inl ⟨rfl, _, rfl, hread, .inl ⟨rfl, ht⟩⟩)
    | drawnTile hi hread ht => exact .inr (.inl ⟨rfl, _, rfl, hread, .inr ⟨hi, ht⟩⟩)
    | palette hi hmode hread ha hzero => exact .inr (.inr (.inl ⟨rfl, hmode, hi, _, rfl, hread, ha, hzero⟩))
    | unwritten _ p hlisted hread => exact .inr (.inr (.inr ⟨rfl, p, rfl, hlisted, hread⟩))

end Sys2Proof.Machine
end

section
/-! PROOF of O11 and O46: the machine right after reset, `State.resetWith`, has the reset values of 70_reset R240. A reset the
host asserts differs from it only in the host's side and the count of drawn free values (log 12), of which R240 does not speak. -/

namespace Sys2Proof.Machine

/-- The memories and the canvas hold nothing, the valid bits are 0 and the registers hold the word 0, whatever the
parameters are. -/
theorem resetWith_resetAsSpecified (c : Config) : ResetAsSpecified (State.resetWith c) := by
  refine ⟨?memories, ?validBits, ?canvas, ?registers⟩
  case memories => exact ⟨read_nil, read_nil, read_nil, read_nil, read_nil⟩
  case validBits => exact ⟨rfl, rfl, rfl⟩
  case canvas => exact fun _ _ _ => read_nil _
  case registers =>
    have hstatus : (State.resetWith c).status.word = 0 := BitVec.eq_of_toNat_eq (toNat_statusWord _)
    exact ⟨rfl, hstatus, rfl⟩

/-- Every element of the machine stands after `State.hostReset` as `State.resetWith` has it. -/
theorem hostReset_resetAsSpecified (s : State) : ResetAsSpecified s.hostReset := resetWith_resetAsSpecified s.cfg

/-- A step at which the host asserts reset (70_reset R240, R241). -/
theorem step_reset {s : State} {rest : List HostOp} (hpend : s.host.pending = .reset :: rest) :
    step s = .next (afterAccess s rest).hostReset := step_pending hpend

/-- The default parameters are in the ranges of 00_scope R6. -/
theorem standard_wf : Config.standard.wf := by decide

/-- Settles O11: at power-on and at the host's reset the elements are those of `State.resetWith`. -/
theorem resetSetsEveryElement : Obligations.ResetSetsEveryElement := by
  refine ⟨resetWith_resetAsSpecified _, rfl, fun s rest hpend => ?_⟩
  exact ⟨(afterAccess s rest).hostReset, step_reset hpend, hostReset_resetAsSpecified _, rfl⟩

/-- Settles O46: the reset state of any parameters in range is well formed, and the defaults are in range. -/
theorem resetIsWellFormed : Obligations.ResetIsWellFormed := resetWith_wf standard_wf

end Sys2Proof.Machine
end
